-- ==== Sys2Proof/Word.lean ====
section
/-! DEFINITION. The widths the block works in: the byte of a buffer and the 32-bit word of the command port. -/

namespace Sys2Proof

/-- One byte of a buffer (R66). -/
abbrev Byte := BitVec 8

/-- One word of the command port: `CMD`, `ARG` or `result` (R80). -/
abbrev Word := BitVec 32

end Sys2Proof
end

