-- ==== Sys2Proof/Syntax.lean ====
section
/-! DEFINITION. The commands of the block as terms: contexts, buffers, field registers, and one constructor of `Instr`
per row of the opcode table (30_encoding.md R86). -/

namespace Sys2Proof

/-- The four contexts (R24, R85). -/
inductive Ctx where
  | ip | tcp | icmp | ping
  deriving DecidableEq, Repr

/-- The five buffers (R40, R85). -/
inductive Buf where
  | scratch | tcpPay | icmpPay | pingPay | out
  deriving DecidableEq, Repr

/-- The thirteen registers of an IP bank (R25). -/
inductive IpReg where
  | version | ihl | dscp | ecn | totlen | ident | flags | fragoff | ttl | proto | hcsum | src | dst
  deriving DecidableEq, Repr

/-- The nineteen registers of the TCP bank (R29). -/
inductive TcpReg where
  | sport | dport | seq | acknum | hlw | rsvd | ns | cwr | ece | urg | ack | psh | rst | syn | fin
  | window | tcsum | urgptr | options
  deriving DecidableEq, Repr

/-- The four registers of an ICMP bank (R33). -/
inductive IcmpReg where
  | icmpType | code | icsum | option
  deriving DecidableEq, Repr

/-- A field register by its name: what a selector selects (R110, R111). -/
inductive Reg where
  | ip (r : IpReg)
  | tcp (r : TcpReg)
  | icmp (r : IcmpReg)
  deriving DecidableEq, Repr

/-- The twenty commands (R86), with their open fields and their `ARG` where the row does not say it must be 0. -/
inductive Instr where
  /-- Row 1, R133. -/
  | csum
  /-- Row 2, R150: the operand is the protocol number. -/
  | constructIp (proto : Word)
  /-- Row 3, R180: the operand is the initial sequence number. -/
  | constructTcp (seq : Word)
  /-- Row 4, R210: the operand is the ICMP type. -/
  | constructIcmp (icmpType : Word)
  /-- Row 5, R230: the operand is the echo identifier. -/
  | constructPing (ident : Word)
  /-- Row 6, R156: the operand is the payload length. -/
  | buildIp (len : Word)
  /-- Row 7, R186. -/
  | buildTcp
  /-- Row 8, R214. -/
  | buildIcmp
  /-- Row 9, R233. -/
  | buildPing
  /-- Row 10, R158. -/
  | setSrc (ctx : Ctx)
  /-- Row 11, R159. -/
  | setDst (ctx : Ctx)
  /-- Row 12, R188. -/
  | setSport (port : Word)
  /-- Row 13, R189. -/
  | setDport (port : Word)
  /-- Row 14, R120. -/
  | setPay (ctx : Ctx)
  /-- Row 15, R112. -/
  | rdf (ctx : Ctx) (reg : Reg)
  /-- Row 16, R113. -/
  | wrf (ctx : Ctx) (reg : Reg) (value : Word)
  /-- Row 17, R116. -/
  | clr
  /-- Row 18, R117. -/
  | push (byte : Word)
  /-- Row 19, R118. -/
  | ldb (buf : Buf) (index : Word)
  /-- Row 20, R119. -/
  | getLen (buf : Buf)
  deriving DecidableEq, Repr

end Sys2Proof
end

