-- ==== Sys2Proof/Machine/Selectors.lean ====
section
/-! DEFINITION. The tables of names: unit numbers (R85), selectors (R25, R29, R33), widths (R110), which registers exist
in which context and which of them the host may write (R36). -/

namespace Sys2Proof

/-- Context ids (R85). -/
def Ctx.toByte : Ctx → Byte
  | .ip => 0
  | .tcp => 1
  | .icmp => 2
  | .ping => 3

/-- The context a unit value names; ids 4 to 255 are reserved (R69, R85). -/
def Ctx.ofByte (b : Byte) : Option Ctx :=
  match b.toNat with
  | 0 => some .ip
  | 1 => some .tcp
  | 2 => some .icmp
  | 3 => some .ping
  | _ => none

/-- Buffer ids (R40, R85). -/
def Buf.toByte : Buf → Byte
  | .scratch => 0
  | .tcpPay => 1
  | .icmpPay => 2
  | .pingPay => 3
  | .out => 4

/-- The buffer a unit value names; ids 5 to 255 are reserved (R40, R69). -/
def Buf.ofByte (b : Byte) : Option Buf :=
  match b.toNat with
  | 0 => some .scratch
  | 1 => some .tcpPay
  | 2 => some .icmpPay
  | 3 => some .pingPay
  | 4 => some .out
  | _ => none

/-- Selectors of the IP bank (R25). -/
def IpReg.sel : IpReg → Byte
  | .version => 0x00
  | .ihl => 0x01
  | .dscp => 0x02
  | .ecn => 0x03
  | .totlen => 0x04
  | .ident => 0x05
  | .flags => 0x06
  | .fragoff => 0x07
  | .ttl => 0x08
  | .proto => 0x09
  | .hcsum => 0x0A
  | .src => 0x0B
  | .dst => 0x0C

/-- Selectors of the TCP bank (R29). -/
def TcpReg.sel : TcpReg → Byte
  | .sport => 0x20
  | .dport => 0x21
  | .seq => 0x22
  | .acknum => 0x23
  | .hlw => 0x24
  | .rsvd => 0x25
  | .ns => 0x26
  | .cwr => 0x27
  | .ece => 0x28
  | .urg => 0x29
  | .ack => 0x2A
  | .psh => 0x2B
  | .rst => 0x2C
  | .syn => 0x2D
  | .fin => 0x2E
  | .window => 0x2F
  | .tcsum => 0x30
  | .urgptr => 0x31
  | .options => 0x32

/-- Selectors of the ICMP bank (R33). -/
def IcmpReg.sel : IcmpReg → Byte
  | .icmpType => 0x40
  | .code => 0x41
  | .icsum => 0x42
  | .option => 0x43

/-- The selector of a register. -/
def Reg.sel : Reg → Byte
  | .ip r => r.sel
  | .tcp r => r.sel
  | .icmp r => r.sel

/-- The register a selector names in some context; every other selector is reserved everywhere (R36). -/
def Reg.ofSel (b : Byte) : Option Reg :=
  match b.toNat with
  | 0x00 => some (.ip .version)
  | 0x01 => some (.ip .ihl)
  | 0x02 => some (.ip .dscp)
  | 0x03 => some (.ip .ecn)
  | 0x04 => some (.ip .totlen)
  | 0x05 => some (.ip .ident)
  | 0x06 => some (.ip .flags)
  | 0x07 => some (.ip .fragoff)
  | 0x08 => some (.ip .ttl)
  | 0x09 => some (.ip .proto)
  | 0x0A => some (.ip .hcsum)
  | 0x0B => some (.ip .src)
  | 0x0C => some (.ip .dst)
  | 0x20 => some (.tcp .sport)
  | 0x21 => some (.tcp .dport)
  | 0x22 => some (.tcp .seq)
  | 0x23 => some (.tcp .acknum)
  | 0x24 => some (.tcp .hlw)
  | 0x25 => some (.tcp .rsvd)
  | 0x26 => some (.tcp .ns)
  | 0x27 => some (.tcp .cwr)
  | 0x28 => some (.tcp .ece)
  | 0x29 => some (.tcp .urg)
  | 0x2A => some (.tcp .ack)
  | 0x2B => some (.tcp .psh)
  | 0x2C => some (.tcp .rst)
  | 0x2D => some (.tcp .syn)
  | 0x2E => some (.tcp .fin)
  | 0x2F => some (.tcp .window)
  | 0x30 => some (.tcp .tcsum)
  | 0x31 => some (.tcp .urgptr)
  | 0x32 => some (.tcp .options)
  | 0x40 => some (.icmp .icmpType)
  | 0x41 => some (.icmp .code)
  | 0x42 => some (.icmp .icsum)
  | 0x43 => some (.icmp .option)
  | _ => none

/-- Widths of the IP bank (R25, R110). -/
def IpReg.width : IpReg → Nat
  | .version => 4
  | .ihl => 4
  | .dscp => 6
  | .ecn => 2
  | .totlen => 16
  | .ident => 16
  | .flags => 3
  | .fragoff => 13
  | .ttl => 8
  | .proto => 8
  | .hcsum => 16
  | .src => 32
  | .dst => 32

/-- Widths of the TCP bank (R29, R110). -/
def TcpReg.width : TcpReg → Nat
  | .sport => 16
  | .dport => 16
  | .seq => 32
  | .acknum => 32
  | .hlw => 4
  | .rsvd => 3
  | .ns => 1
  | .cwr => 1
  | .ece => 1
  | .urg => 1
  | .ack => 1
  | .psh => 1
  | .rst => 1
  | .syn => 1
  | .fin => 1
  | .window => 16
  | .tcsum => 16
  | .urgptr => 16
  | .options => 32

/-- Widths of the ICMP bank (R33, R110). -/
def IcmpReg.width : IcmpReg → Nat
  | .icmpType => 8
  | .code => 8
  | .icsum => 16
  | .option => 32

/-- `width(sel)` of R110. -/
def Reg.width : Reg → Nat
  | .ip r => r.width
  | .tcp r => r.width
  | .icmp r => r.width

/-- Which registers exist in which context: the first column of R36. -/
def Reg.existsIn (r : Reg) (c : Ctx) : Bool :=
  match r, c with
  | .ip _, _ => true
  | .tcp _, .tcp => true
  | .tcp _, .ip => false
  | .tcp _, .icmp => false
  | .tcp _, .ping => false
  | .icmp _, .icmp => true
  | .icmp _, .ping => true
  | .icmp _, .ip => false
  | .icmp _, .tcp => false

/-- Which registers the host may only read, where they exist: the second column of R36. -/
def Reg.readOnlyIn (r : Reg) (c : Ctx) : Bool :=
  match r with
  | .ip .totlen => true
  | .ip .ident => true
  | .ip .hcsum => true
  | .ip .proto => c != .ip
  | .tcp .tcsum => true
  | .icmp .icsum => true
  | .icmp .icmpType => c == .ping
  | .icmp .option => c == .ping
  | _ => false

/-- What `WRF` may name in a context (R36, R86 row 16). -/
def Reg.writableIn (r : Reg) (c : Ctx) : Bool :=
  r.existsIn c && !r.readOnlyIn c

end Sys2Proof
end

