-- ==== Sys2Proof/WellFormed.lean ====
section
/-! DEFINITION. Which terms of `Instr` are commands of the block: those with an encoding (30_encoding.md R86, the column
of legal open fields). -/

namespace Sys2Proof

/-- `SETPAY` names a context with a payload buffer (R86 row 14); `RDF` a register that exists in its context (row 15);
`WRF` one that exists and is not read-only there (row 16).  Every other term is a command. -/
def Instr.wf : Instr → Bool
  | .csum => true
  | .constructIp _ => true
  | .constructTcp _ => true
  | .constructIcmp _ => true
  | .constructPing _ => true
  | .buildIp _ => true
  | .buildTcp => true
  | .buildIcmp => true
  | .buildPing => true
  | .setSrc _ => true
  | .setDst _ => true
  | .setSport _ => true
  | .setDport _ => true
  | .setPay c => c != .ip
  | .rdf c r => r.existsIn c
  | .wrf c r _ => r.writableIn c
  | .clr => true
  | .push _ => true
  | .ldb _ _ => true
  | .getLen _ => true

end Sys2Proof
end

