-- ==== Sys2Proof/Decode.lean ====
section
/-! DEFINITION. The decoder, total on any pair of words and reading no state (30_encoding.md R88, R90); after it the
encoder, written from the same tables; and the opcode table of R86 as rows. -/

namespace Sys2Proof

/-- Why a pair of words is illegal, by the letter of R88 (`V60a` to `V61k` use the same letters).  The block answers
every one of them with IllegalCommand; the name tells nothing to the host (log entry 14). -/
inductive Illegal where
  /-- (a) `op` is not in R84. -/
  | reservedOpcode
  /-- (b) `CMD[7:0]` is not zero. -/
  | reservedBits
  /-- (c) `sel` is not zero in format Z, C or B. -/
  | selNotZero
  /-- (d) `unit` is not zero in format Z. -/
  | unitNotZero
  /-- (e) `unit` is not in the legal set of the row. -/
  | reservedUnit
  /-- (f) `sel` does not exist in the named context. -/
  | noSuchField
  /-- (g) `sel` is read-only in the named context, for `WRF`. -/
  | readOnlyField
  /-- (h) `ARG` is not zero where the row says it must be. -/
  | argNotZero
  deriving DecidableEq, Repr

/-- The fourteen opcodes (R84). -/
inductive Opcode where
  | csum | construct | build | setSrc | setDst | setSport | setDport | setPay | rdf | wrf | clr | push | ldb | getLen
  deriving DecidableEq, Repr

/-- `CMD[31:24]` of an opcode (R84). -/
def Opcode.toByte : Opcode → Byte
  | .csum => 0x01
  | .construct => 0x10
  | .build => 0x11
  | .setSrc => 0x12
  | .setDst => 0x13
  | .setSport => 0x14
  | .setDport => 0x15
  | .setPay => 0x16
  | .rdf => 0x20
  | .wrf => 0x21
  | .clr => 0x30
  | .push => 0x31
  | .ldb => 0x32
  | .getLen => 0x33

/-- The opcode a byte is; every value not in R84 is reserved. -/
def Opcode.ofByte (b : Byte) : Option Opcode :=
  match b.toNat with
  | 0x01 => some .csum
  | 0x10 => some .construct
  | 0x11 => some .build
  | 0x12 => some .setSrc
  | 0x13 => some .setDst
  | 0x14 => some .setSport
  | 0x15 => some .setDport
  | 0x16 => some .setPay
  | 0x20 => some .rdf
  | 0x21 => some .wrf
  | 0x30 => some .clr
  | 0x31 => some .push
  | 0x32 => some .ldb
  | 0x33 => some .getLen
  | _ => none

/-- `CMD[31:24]` (R81). -/
def cmdOp (cmd : Word) : Byte := cmd.extractLsb' 24 8

/-- `CMD[23:16]` (R81). -/
def cmdUnit (cmd : Word) : Byte := cmd.extractLsb' 16 8

/-- `CMD[15:8]` (R81). -/
def cmdSel (cmd : Word) : Byte := cmd.extractLsb' 8 8

/-- `CMD[7:0]`, reserved in every format (R81). -/
def cmdZero (cmd : Word) : Byte := cmd.extractLsb' 0 8

/-- Formats Z, C and B: `sel` must be zero (R82, R88 (c)). -/
def needSelZero (sel : Byte) (k : Except Illegal Instr) : Except Illegal Instr :=
  if sel = 0 then k else .error .selNotZero

/-- Rows that say `ARG` must be 0 (R83, R88 (h)). -/
def needArgZero (arg : Word) (k : Except Illegal Instr) : Except Illegal Instr :=
  if arg = 0 then k else .error .argNotZero

/-- Formats C and F: `unit` is a context id (R82, R88 (e)). -/
def withCtx (unit : Byte) (k : Ctx → Except Illegal Instr) : Except Illegal Instr :=
  match Ctx.ofByte unit with
  | some c => k c
  | none => .error .reservedUnit

/-- Format B: `unit` is a buffer id (R82, R88 (e)). -/
def withBuf (unit : Byte) (k : Buf → Except Illegal Instr) : Except Illegal Instr :=
  match Buf.ofByte unit with
  | some b => k b
  | none => .error .reservedUnit

/-- Format F: `sel` names a register that exists in the context (R82, R88 (f)). -/
def withReg (c : Ctx) (sel : Byte) (k : Reg → Except Illegal Instr) : Except Illegal Instr :=
  match Reg.ofSel sel with
  | some r => if r.existsIn c then k r else .error .noSuchField
  | none => .error .noSuchField

/-- The rows of one opcode (R86), given the other fields of `CMD` and the `ARG`. -/
def decodeOpcode (unit sel : Byte) (arg : Word) : Opcode → Except Illegal Instr
  | .csum =>
    if unit = 0 then needSelZero sel (needArgZero arg (.ok .csum)) else .error .unitNotZero
  | .construct =>
    withCtx unit fun c => needSelZero sel <|
      match c with
      | .ip => .ok (.constructIp arg)
      | .tcp => .ok (.constructTcp arg)
      | .icmp => .ok (.constructIcmp arg)
      | .ping => .ok (.constructPing arg)
  | .build =>
    withCtx unit fun c => needSelZero sel <|
      match c with
      | .ip => .ok (.buildIp arg)
      | .tcp => needArgZero arg (.ok .buildTcp)
      | .icmp => needArgZero arg (.ok .buildIcmp)
      | .ping => needArgZero arg (.ok .buildPing)
  | .setSrc => withCtx unit fun c => needSelZero sel (needArgZero arg (.ok (.setSrc c)))
  | .setDst => withCtx unit fun c => needSelZero sel (needArgZero arg (.ok (.setDst c)))
  | .setSport =>
    withCtx unit fun c => needSelZero sel (if c = .tcp then .ok (.setSport arg) else .error .reservedUnit)
  | .setDport =>
    withCtx unit fun c => needSelZero sel (if c = .tcp then .ok (.setDport arg) else .error .reservedUnit)
  | .setPay =>
    withCtx unit fun c => needSelZero sel
      (if c = .ip then .error .reservedUnit else needArgZero arg (.ok (.setPay c)))
  | .rdf => withCtx unit fun c => withReg c sel fun r => needArgZero arg (.ok (.rdf c r))
  | .wrf =>
    withCtx unit fun c => withReg c sel fun r =>
      if r.readOnlyIn c then .error .readOnlyField else .ok (.wrf c r arg)
  | .clr =>
    withBuf unit fun b => needSelZero sel
      (if b = .scratch then needArgZero arg (.ok .clr) else .error .reservedUnit)
  | .push =>
    withBuf unit fun b => needSelZero sel
      (if b = .scratch then .ok (.push arg) else .error .reservedUnit)
  | .ldb => withBuf unit fun b => needSelZero sel (.ok (.ldb b arg))
  | .getLen => withBuf unit fun b => needSelZero sel (needArgZero arg (.ok (.getLen b)))

/-- The decoder on the four byte fields of `CMD`. -/
def decodeFields (op unit sel zero : Byte) (arg : Word) : Except Illegal Instr :=
  if zero = 0 then
    match Opcode.ofByte op with
    | some o => decodeOpcode unit sel arg o
    | none => .error .reservedOpcode
  else .error .reservedBits

/-- The decoder: a pair of words is exactly one command, or it is illegal (R88, R90). -/
def decode (cmd arg : Word) : Except Illegal Instr :=
  decodeFields (cmdOp cmd) (cmdUnit cmd) (cmdSel cmd) (cmdZero cmd) arg

/-- The `CMD` word of its fields, the reserved byte zero (R81). -/
def mkCmd (op : Opcode) (unit sel : Byte) : Word := op.toByte ++ unit ++ sel ++ (0 : Byte)

/-- The two words `(CMD, ARG)` of a command (R86, R94). -/
def encode : Instr → Word × Word
  | .csum => (mkCmd .csum 0 0, 0)
  | .constructIp a => (mkCmd .construct Ctx.ip.toByte 0, a)
  | .constructTcp a => (mkCmd .construct Ctx.tcp.toByte 0, a)
  | .constructIcmp a => (mkCmd .construct Ctx.icmp.toByte 0, a)
  | .constructPing a => (mkCmd .construct Ctx.ping.toByte 0, a)
  | .buildIp a => (mkCmd .build Ctx.ip.toByte 0, a)
  | .buildTcp => (mkCmd .build Ctx.tcp.toByte 0, 0)
  | .buildIcmp => (mkCmd .build Ctx.icmp.toByte 0, 0)
  | .buildPing => (mkCmd .build Ctx.ping.toByte 0, 0)
  | .setSrc c => (mkCmd .setSrc c.toByte 0, 0)
  | .setDst c => (mkCmd .setDst c.toByte 0, 0)
  | .setSport a => (mkCmd .setSport Ctx.tcp.toByte 0, a)
  | .setDport a => (mkCmd .setDport Ctx.tcp.toByte 0, a)
  | .setPay c => (mkCmd .setPay c.toByte 0, 0)
  | .rdf c r => (mkCmd .rdf c.toByte r.sel, 0)
  | .wrf c r v => (mkCmd .wrf c.toByte r.sel, v)
  | .clr => (mkCmd .clr Buf.scratch.toByte 0, 0)
  | .push a => (mkCmd .push Buf.scratch.toByte 0, a)
  | .ldb b i => (mkCmd .ldb b.toByte 0, i)
  | .getLen b => (mkCmd .getLen b.toByte 0, 0)

/-- The mnemonic of a command, as the opcode table spells it. -/
def Instr.mnemonic : Instr → String
  | .csum => "CSUM"
  | .constructIp _ => "CONSTRUCT.IP"
  | .constructTcp _ => "CONSTRUCT.TCP"
  | .constructIcmp _ => "CONSTRUCT.ICMP"
  | .constructPing _ => "CONSTRUCT.PING"
  | .buildIp _ => "BUILD.IP"
  | .buildTcp => "BUILD.TCP"
  | .buildIcmp => "BUILD.ICMP"
  | .buildPing => "BUILD.PING"
  | .setSrc _ => "SETSRC"
  | .setDst _ => "SETDST"
  | .setSport _ => "SETSPORT"
  | .setDport _ => "SETDPORT"
  | .setPay _ => "SETPAY"
  | .rdf _ _ => "RDF"
  | .wrf _ _ _ => "WRF"
  | .clr => "CLR"
  | .push _ => "PUSH"
  | .ldb _ _ => "LDB"
  | .getLen _ => "GETLEN"

/-- One row of the opcode table: a word `w` selects it when `w &&& mask = bits` (R86). -/
structure OpcodeRow where
  mnemonic : String
  bits : Word
  mask : Word
  deriving DecidableEq, Repr

/-- The twenty rows of R86, in its order. -/
def opcodeTable : List OpcodeRow :=
  [⟨"CSUM", 0x01000000, 0xFFFFFFFF⟩,
   ⟨"CONSTRUCT.IP", 0x10000000, 0xFFFFFFFF⟩,
   ⟨"CONSTRUCT.TCP", 0x10010000, 0xFFFFFFFF⟩,
   ⟨"CONSTRUCT.ICMP", 0x10020000, 0xFFFFFFFF⟩,
   ⟨"CONSTRUCT.PING", 0x10030000, 0xFFFFFFFF⟩,
   ⟨"BUILD.IP", 0x11000000, 0xFFFFFFFF⟩,
   ⟨"BUILD.TCP", 0x11010000, 0xFFFFFFFF⟩,
   ⟨"BUILD.ICMP", 0x11020000, 0xFFFFFFFF⟩,
   ⟨"BUILD.PING", 0x11030000, 0xFFFFFFFF⟩,
   ⟨"SETSRC", 0x12000000, 0xFF00FFFF⟩] ++
  [⟨"SETDST", 0x13000000, 0xFF00FFFF⟩,
   ⟨"SETSPORT", 0x14010000, 0xFFFFFFFF⟩,
   ⟨"SETDPORT", 0x15010000, 0xFFFFFFFF⟩,
   ⟨"SETPAY", 0x16000000, 0xFF00FFFF⟩,
   ⟨"RDF", 0x20000000, 0xFF0000FF⟩,
   ⟨"WRF", 0x21000000, 0xFF0000FF⟩,
   ⟨"CLR", 0x30000000, 0xFFFFFFFF⟩,
   ⟨"PUSH", 0x31000000, 0xFFFFFFFF⟩,
   ⟨"LDB", 0x32000000, 0xFF00FFFF⟩,
   ⟨"GETLEN", 0x33000000, 0xFF00FFFF⟩]

/-- `CMD` of an instruction given as one number: its first word, bits 31..0 (log entry 12). -/
def tableCmd (nbits w : Nat) : Word := BitVec.ofNat 32 (w % 2 ^ nbits)

/-- `ARG` of an instruction given as one number: its second word, bits 63..32 (log entry 12). -/
def tableArg (nbits w : Nat) : Word := BitVec.ofNat 32 (w % 2 ^ nbits / 2 ^ 32)

/-- The instruction the decoder reads from a row's number of `nbits` bits; the bits above are 0. -/
def decodeTableWord (nbits w : Nat) : Option Instr :=
  match decode (tableCmd nbits w) (tableArg nbits w) with
  | .ok i => some i
  | .error _ => none

end Sys2Proof
end

