-- ==== Sys2Proof/Config.lean ====
section
/-! DEFINITION. The implementation parameters of 00_scope.md R4, and the model's one free value. -/

namespace Sys2Proof

/-- The five parameters a model takes as arguments (R4).  They are data, so that a statement about every state is a
statement about every choice of them (log entry 2). -/
structure Params where
  /-- `TTL_INIT`: what CONSTRUCT writes to every `TTL`. -/
  ttlInit : BitVec 8
  /-- `PING_DEFAULT_PAYLOAD`: what CONSTRUCT.PING installs in PING_PAY. -/
  pingDefaultPayload : List Byte
  /-- `SCRATCH_CAP`: capacity of SCRATCH in bytes. -/
  scratchCap : Nat
  /-- `PAY_CAP`: capacity of each payload buffer in bytes. -/
  payCap : Nat
  /-- `OUT_CAP`: capacity of OUT in bytes. -/
  outCap : Nat
  deriving DecidableEq, Repr

/-- The defaults of R4: `TTL_INIT` 64, the 32 bytes `abcdefghijklmnopqrstuvwabcdefghi`, and the three capacities. -/
def Params.default : Params where
  ttlInit := 64
  pingDefaultPayload :=
    [0x61, 0x62, 0x63, 0x64, 0x65, 0x66, 0x67, 0x68, 0x69, 0x6A, 0x6B, 0x6C, 0x6D, 0x6E, 0x6F, 0x70] ++
    [0x71, 0x72, 0x73, 0x74, 0x75, 0x76, 0x77, 0x61, 0x62, 0x63, 0x64, 0x65, 0x66, 0x67, 0x68, 0x69]
  scratchCap := 65535
  payCap := 65535
  outCap := 65555

/-- The constraints R4 puts on the parameters. -/
abbrev Params.wf (p : Params) : Prop :=
  p.pingDefaultPayload.length % 2 = 0 ∧
  p.pingDefaultPayload.length ≤ p.payCap ∧
  (∀ b ∈ p.pingDefaultPayload, b.toNat < 0x80) ∧
  15 ≤ p.scratchCap ∧
  p.payCap ≤ p.scratchCap + 1 ∧
  20 + 65535 ≤ p.outCap

/-- FREE VALUE (log entry 7, DESIGN CHOICE): the result word that answers a buffer length of 2^32 or more, which no
32-bit word holds.  R4 sets no upper bound on a capacity and R96 states no result for such a length. -/
opaque Config.longLength : Nat → Word

end Sys2Proof
end

