-- ==== Sys2Proof/Machine/State.lean ====
section
/-! DEFINITION. Everything the spec gives the machine (10_state.md R20): four contexts of field registers behind their
VALID bits, five byte buffers; and beside them the inputs and the output of a step (ports, parameters). -/

namespace Sys2Proof.Machine

/-- The thirteen registers of an IP bank, each exactly as wide as R25 says (R26). -/
structure IpBank where
  version : BitVec 4
  ihl : BitVec 4
  dscp : BitVec 6
  ecn : BitVec 2
  totlen : BitVec 16
  ident : BitVec 16
  flags : BitVec 3
  fragoff : BitVec 13
  ttl : BitVec 8
  proto : BitVec 8
  hcsum : BitVec 16
  src : BitVec 32
  dst : BitVec 32
  deriving DecidableEq, Repr

/-- The nineteen registers of the TCP bank (R29). -/
structure TcpBank where
  sport : BitVec 16
  dport : BitVec 16
  seq : BitVec 32
  acknum : BitVec 32
  hlw : BitVec 4
  rsvd : BitVec 3
  ns : BitVec 1
  cwr : BitVec 1
  ece : BitVec 1
  urg : BitVec 1
  ack : BitVec 1
  psh : BitVec 1
  rst : BitVec 1
  syn : BitVec 1
  fin : BitVec 1
  window : BitVec 16
  tcsum : BitVec 16
  urgptr : BitVec 16
  options : BitVec 32
  deriving DecidableEq, Repr

/-- The four registers of an ICMP bank (R33). -/
structure IcmpBank where
  icmpType : BitVec 8
  code : BitVec 8
  icsum : BitVec 16
  option : BitVec 32
  deriving DecidableEq, Repr

/-- The registers of context TCP: its embedded IP bank and its TCP bank (R24). -/
structure TcpContext where
  ip : IpBank
  tcp : TcpBank
  deriving DecidableEq, Repr

/-- The registers of context ICMP, or of context PING: the embedded IP bank and the ICMP bank (R24). -/
structure IcmpContext where
  ip : IpBank
  icmp : IcmpBank
  deriving DecidableEq, Repr

/-- The five byte buffers (R40).  A buffer is the list of its bytes, index 0 first, and has no content beyond its length
(log entry 6). -/
structure Memory where
  scratch : List Byte
  tcpPay : List Byte
  icmpPay : List Byte
  pingPay : List Byte
  out : List Byte
  deriving DecidableEq, Repr

/-- The status of a response (R250): exactly eight values. -/
inductive Status where
  | ok
  | constructionError
  | addressFormatError
  | unsupportedFeatureError
  | fieldOverflowError
  | illegalCommand
  | notConstructed
  | bufferRangeError
  deriving DecidableEq, Repr

/-- The answer to one command (R80): a status and a 32-bit result. -/
structure Response where
  status : Status
  result : Word
  deriving DecidableEq, Repr

/-- What the host does at the ports (R280, R284), one event at a time (log entries 3, 4, 5). -/
inductive HostEvent where
  /-- `cmd_valid` with `cmd` and `arg`, until the block accepts the pair. -/
  | command (cmd arg : Word)
  /-- `rsp_ready`: the host takes the response that stands. -/
  | takeResponse
  /-- `rst` is asserted and released. -/
  | reset
  deriving DecidableEq, Repr

/-- Reasons for the machine to STOP.  There is none, so the type is empty: a fault of this block is a status in a
response and the block goes on (R257, R262, R263; log entry 10). -/
inductive Fault where
  deriving DecidableEq, Repr

/-- Reasons to refuse an instruction. -/
inductive Refusal where
  /-- Raised only by an arm of `exec` for an instruction that has no meaning yet.  No arm does: every row of the opcode
  table has its meaning.  Safe: the machine stops where the hardware goes on. -/
  | notModelled (mnemonic : String)
  deriving DecidableEq, Repr

/-- The state of the machine.  The first five fields are the record of R20; a context's registers exist exactly while
its VALID bit is 1, so `none` IS `VALID = 0` (R24, R44, R281; log entry 1).  The last three are the MODEL's own: the
parameters of R4 and the ports of R284, which R20 calls inputs and outputs of a step (log entries 2, 3, 4). -/
structure State where
  /-- Context IP: VALID[IP] and its IP bank. -/
  ip : Option IpBank
  /-- Context TCP: VALID[TCP], its embedded IP bank and its TCP bank. -/
  tcp : Option TcpContext
  /-- Context ICMP: VALID[ICMP], its embedded IP bank and its ICMP bank. -/
  icmp : Option IcmpContext
  /-- Context PING: VALID[PING], its embedded IP bank and its ICMP bank. -/
  ping : Option IcmpContext
  /-- The five buffers. -/
  mem : Memory
  /-- The implementation parameters, which no step changes (R4). -/
  params : Params
  /-- The input side of the ports: what the host does next, oldest first. -/
  host : List HostEvent
  /-- The output side of the ports: the response that stands (`rsp_valid`, `rsp_status`, `rsp_result`). -/
  rsp : Option Response
  deriving DecidableEq, Repr

/-- All five buffers empty (R44). -/
def Memory.empty : Memory where
  scratch := []
  tcpPay := []
  icmpPay := []
  pingPay := []
  out := []

/-- The machine right after reset (R44, R280): every VALID bit 0, every buffer empty, no response standing; the
parameters at their defaults (R4), nothing presented by the host yet. -/
def State.reset : State where
  ip := none
  tcp := none
  icmp := none
  ping := none
  mem := Memory.empty
  params := Params.default
  host := []
  rsp := none

end Sys2Proof.Machine
end

