-- ==== Sys2Proof/Machine/Ops.lean ====
section
/-! DEFINITION. The named operations every meaning is written with: ending a command (`raise`, `respond`), the banks of a
context, a field register by its name, the buffers. -/

namespace Sys2Proof.Machine

/-! ### Ending a command

What other machines do by taking an exception, this block does by answering: a fault saves nothing, changes no mode and
transfers control nowhere (60_exceptions.md R261), there is no return from one (R262), and the state after it is the
state before it (R257).  So `raise` is the whole of exception entry, and there is no exception return. -/

/-- `raise E` of R6: end the command with status `E`, result 0, and no change to any state (R257). -/
def raise (e : Status) (s : State) : Host.Outcome State Fault Refusal :=
  .next { s with rsp := some { status := e, result := 0 } }

/-- `respond(v)` of R6: end the command with status OK and result `v`, in the state `s` its effects have left. -/
def respond (v : Word) (s : State) : Host.Outcome State Fault Refusal :=
  .next { s with rsp := some { status := .ok, result := v } }

/-- A buffer length as a result word (R96).  A length of 2^32 or more is answered by a free value (log entry 7). -/
def lengthWord (n : Nat) : Word :=
  if n < 2 ^ 32 then BitVec.ofNat 32 n else Config.longLength n

/-! ### Contexts -/

/-- `VALID[c]` (R24, R38). -/
def State.valid (s : State) : Ctx → Bool
  | .ip => s.ip.isSome
  | .tcp => s.tcp.isSome
  | .icmp => s.icmp.isSome
  | .ping => s.ping.isSome

/-- The IP bank of a context, its own or the embedded one: `F[c].ip` of R6; none while `VALID[c]` is 0. -/
def State.ipBank (s : State) : Ctx → Option IpBank
  | .ip => s.ip
  | .tcp => s.tcp.map TcpContext.ip
  | .icmp => s.icmp.map IcmpContext.ip
  | .ping => s.ping.map IcmpContext.ip

/-- The TCP bank of a context (R29): context TCP only. -/
def State.tcpBank (s : State) : Ctx → Option TcpBank
  | .ip => none
  | .tcp => s.tcp.map TcpContext.tcp
  | .icmp => none
  | .ping => none

/-- The ICMP bank of a context (R33): contexts ICMP and PING. -/
def State.icmpBank (s : State) : Ctx → Option IcmpBank
  | .ip => none
  | .tcp => none
  | .icmp => s.icmp.map IcmpContext.icmp
  | .ping => s.ping.map IcmpContext.icmp

/-- Rewrite the IP bank of a constructed context; nothing where `VALID[c]` is 0. -/
def State.mapIpBank (s : State) (c : Ctx) (f : IpBank → IpBank) : State :=
  match c with
  | .ip => { s with ip := s.ip.map f }
  | .tcp => { s with tcp := s.tcp.map fun x => { x with ip := f x.ip } }
  | .icmp => { s with icmp := s.icmp.map fun x => { x with ip := f x.ip } }
  | .ping => { s with ping := s.ping.map fun x => { x with ip := f x.ip } }

/-- Rewrite the TCP bank of context TCP, if constructed. -/
def State.mapTcpBank (s : State) (f : TcpBank → TcpBank) : State :=
  { s with tcp := s.tcp.map fun x => { x with tcp := f x.tcp } }

/-- Rewrite the ICMP bank of context ICMP or PING, if constructed. -/
def State.mapIcmpBank (s : State) (c : Ctx) (f : IcmpBank → IcmpBank) : State :=
  match c with
  | .ip => s
  | .tcp => s
  | .icmp => { s with icmp := s.icmp.map fun x => { x with icmp := f x.icmp } }
  | .ping => { s with ping := s.ping.map fun x => { x with icmp := f x.icmp } }

/-! ### Field registers by name (R110, R111) -/

/-- A register of an IP bank, zero-extended to 32 bits. -/
def IpBank.read (b : IpBank) : IpReg → Word
  | .version => b.version.setWidth 32
  | .ihl => b.ihl.setWidth 32
  | .dscp => b.dscp.setWidth 32
  | .ecn => b.ecn.setWidth 32
  | .totlen => b.totlen.setWidth 32
  | .ident => b.ident.setWidth 32
  | .flags => b.flags.setWidth 32
  | .fragoff => b.fragoff.setWidth 32
  | .ttl => b.ttl.setWidth 32
  | .proto => b.proto.setWidth 32
  | .hcsum => b.hcsum.setWidth 32
  | .src => b.src
  | .dst => b.dst

/-- `reg <- v[width-1:0]` in an IP bank. -/
def IpBank.write (b : IpBank) (r : IpReg) (v : Word) : IpBank :=
  match r with
  | .version => { b with version := v.setWidth 4 }
  | .ihl => { b with ihl := v.setWidth 4 }
  | .dscp => { b with dscp := v.setWidth 6 }
  | .ecn => { b with ecn := v.setWidth 2 }
  | .totlen => { b with totlen := v.setWidth 16 }
  | .ident => { b with ident := v.setWidth 16 }
  | .flags => { b with flags := v.setWidth 3 }
  | .fragoff => { b with fragoff := v.setWidth 13 }
  | .ttl => { b with ttl := v.setWidth 8 }
  | .proto => { b with proto := v.setWidth 8 }
  | .hcsum => { b with hcsum := v.setWidth 16 }
  | .src => { b with src := v }
  | .dst => { b with dst := v }

/-- A register of the TCP bank, zero-extended to 32 bits. -/
def TcpBank.read (b : TcpBank) : TcpReg → Word
  | .sport => b.sport.setWidth 32
  | .dport => b.dport.setWidth 32
  | .seq => b.seq
  | .acknum => b.acknum
  | .hlw => b.hlw.setWidth 32
  | .rsvd => b.rsvd.setWidth 32
  | .ns => b.ns.setWidth 32
  | .cwr => b.cwr.setWidth 32
  | .ece => b.ece.setWidth 32
  | .urg => b.urg.setWidth 32
  | .ack => b.ack.setWidth 32
  | .psh => b.psh.setWidth 32
  | .rst => b.rst.setWidth 32
  | .syn => b.syn.setWidth 32
  | .fin => b.fin.setWidth 32
  | .window => b.window.setWidth 32
  | .tcsum => b.tcsum.setWidth 32
  | .urgptr => b.urgptr.setWidth 32
  | .options => b.options

/-- `reg <- v[width-1:0]` in the TCP bank. -/
def TcpBank.write (b : TcpBank) (r : TcpReg) (v : Word) : TcpBank :=
  match r with
  | .sport => { b with sport := v.setWidth 16 }
  | .dport => { b with dport := v.setWidth 16 }
  | .seq => { b with seq := v }
  | .acknum => { b with acknum := v }
  | .hlw => { b with hlw := v.setWidth 4 }
  | .rsvd => { b with rsvd := v.setWidth 3 }
  | .ns => { b with ns := v.setWidth 1 }
  | .cwr => { b with cwr := v.setWidth 1 }
  | .ece => { b with ece := v.setWidth 1 }
  | .urg => { b with urg := v.setWidth 1 }
  | .ack => { b with ack := v.setWidth 1 }
  | .psh => { b with psh := v.setWidth 1 }
  | .rst => { b with rst := v.setWidth 1 }
  | .syn => { b with syn := v.setWidth 1 }
  | .fin => { b with fin := v.setWidth 1 }
  | .window => { b with window := v.setWidth 16 }
  | .tcsum => { b with tcsum := v.setWidth 16 }
  | .urgptr => { b with urgptr := v.setWidth 16 }
  | .options => { b with options := v }

/-- A register of an ICMP bank, zero-extended to 32 bits. -/
def IcmpBank.read (b : IcmpBank) : IcmpReg → Word
  | .icmpType => b.icmpType.setWidth 32
  | .code => b.code.setWidth 32
  | .icsum => b.icsum.setWidth 32
  | .option => b.option

/-- `reg <- v[width-1:0]` in an ICMP bank. -/
def IcmpBank.write (b : IcmpBank) (r : IcmpReg) (v : Word) : IcmpBank :=
  match r with
  | .icmpType => { b with icmpType := v.setWidth 8 }
  | .code => { b with code := v.setWidth 8 }
  | .icsum => { b with icsum := v.setWidth 16 }
  | .option => { b with option := v }

/-- `zext_32(reg(c, sel))` of R111 and R112: none while `VALID[c]` is 0, and for a register that does not exist in `c`. -/
def State.readField (s : State) (c : Ctx) : Reg → Option Word
  | .ip r => (s.ipBank c).map fun b => b.read r
  | .tcp r => (s.tcpBank c).map fun b => b.read r
  | .icmp r => (s.icmpBank c).map fun b => b.read r

/-- `reg(c, sel) <- v[width(sel)-1:0]` of R111 and R113: the one register, where it exists. -/
def State.writeField (s : State) (c : Ctx) (r : Reg) (v : Word) : State :=
  match r with
  | .ip r => s.mapIpBank c fun b => b.write r v
  | .tcp r =>
    match c with
    | .ip => s
    | .tcp => s.mapTcpBank fun b => b.write r v
    | .icmp => s
    | .ping => s
  | .icmp r => s.mapIcmpBank c fun b => b.write r v

/-! ### Buffers (R40, R60) -/

/-- `BUF[b]`. -/
def Memory.buf (m : Memory) : Buf → List Byte
  | .scratch => m.scratch
  | .tcpPay => m.tcpPay
  | .icmpPay => m.icmpPay
  | .pingPay => m.pingPay
  | .out => m.out

/-- `BUF[b] <- L`. -/
def Memory.setBuf (m : Memory) (b : Buf) (l : List Byte) : Memory :=
  match b with
  | .scratch => { m with scratch := l }
  | .tcpPay => { m with tcpPay := l }
  | .icmpPay => { m with icmpPay := l }
  | .pingPay => { m with pingPay := l }
  | .out => { m with out := l }

/-- `MemRead((b, i), 1)` of R6: byte `i` of buffer `b`, which exists only while `i < len(BUF[b])` (R60). -/
def Memory.read (m : Memory) (b : Buf) (i : Nat) : Option Byte := (m.buf b)[i]?

/-- `BUF[b] <- L` on the state. -/
def State.setBuf (s : State) (b : Buf) (l : List Byte) : State :=
  { s with mem := s.mem.setBuf b l }

/-- `pay(ctx)` of R120: the payload buffer of a transport context; context IP has none. -/
def payBuf : Ctx → Option Buf
  | .ip => none
  | .tcp => some .tcpPay
  | .icmp => some .icmpPay
  | .ping => some .pingPay

/-- The form every buffer keeps (R40, R232): a length within its capacity, and an even one for PING_PAY. -/
abbrev Memory.wf (p : Params) (m : Memory) : Prop :=
  m.scratch.length ≤ p.scratchCap ∧
  m.tcpPay.length ≤ p.payCap ∧
  m.icmpPay.length ≤ p.payCap ∧
  m.pingPay.length ≤ p.payCap ∧
  m.out.length ≤ p.outCap ∧
  m.pingPay.length % 2 = 0

end Sys2Proof.Machine
end

