-- ==== Sys2Proof/Machine/Operands.lean ====
section
/-! DEFINITION. The operand forms: the number `ARG` against a field's width (R87), the two enumerations (R92, R93), and
the dotted-quad text of SCRATCH (R157, R160). -/

namespace Sys2Proof.Machine

/-- The whole 32-bit `ARG` fits a field of `w` bits (R87, R113). -/
def fits (w : Nat) (arg : Word) : Bool := decide (arg.toNat < 2 ^ w)

/-- The ten protocol numbers (R92): the operand of CONSTRUCT.IP, compared as the whole 32-bit number. -/
def isProtocolNumber (arg : Word) : Bool := decide (arg.toNat ∈ [0, 1, 2, 3, 4, 5, 6, 7, 8, 9])

/-- The ten ICMP types (R93): the operand of CONSTRUCT.ICMP, compared as the whole 32-bit number. -/
def isIcmpType (arg : Word) : Bool := decide (arg.toNat ∈ [0, 3, 5, 8, 9, 10, 11, 12, 13, 14])

/-- An ASCII digit (R160): 0x30 to 0x39. -/
def isDigit (b : Byte) : Bool := decide (0x30 ≤ b.toNat ∧ b.toNat ≤ 0x39)

/-- A group of digits read as a decimal number, leading zeros included (R160). -/
def decimal (g : List Byte) : Nat := g.foldl (fun acc b => 10 * acc + (b.toNat - 0x30)) 0

/-- One group of an address (R160): one, two or three digits, at most 255. -/
def octet (g : List Byte) : Option Nat :=
  if 1 ≤ g.length ∧ g.length ≤ 3 ∧ g.all isDigit = true ∧ decimal g ≤ 255 then some (decimal g) else none

/-- The groups between the bytes 0x2E of a text; a text with `n` dots has `n + 1` groups, some perhaps empty. -/
def splitDots : List Byte → List (List Byte)
  | [] => [[]]
  | b :: rest =>
    if b = 0x2E then [] :: splitDots rest
    else
      match splitDots rest with
      | [] => [[b]]
      | g :: gs => (b :: g) :: gs

/-- The number of four octets, the first in bits 31:24 (R64, R157). -/
def quad (o1 o2 o3 o4 : Nat) : Word := BitVec.ofNat 32 (o1 * 2 ^ 24 + o2 * 2 ^ 16 + o3 * 2 ^ 8 + o4)

/-- `parse_quad(L)` of R160: none where the text is malformed. -/
def parseQuad (l : List Byte) : Option Word :=
  match splitDots l with
  | [g1, g2, g3, g4] =>
    match octet g1, octet g2, octet g3, octet g4 with
    | some o1, some o2, some o3, some o4 => some (quad o1 o2 o3 o4)
    | _, _, _, _ => none
  | _ => none

/-- The padding of SETPAY (R120): for PING only, one space appended to an odd length. -/
def padPayload (c : Ctx) (l : List Byte) : List Byte :=
  if c = .ping ∧ l.length % 2 = 1 then l ++ [0x20] else l

end Sys2Proof.Machine
end

