-- ==== Sys2Proof/Machine/Access.lean ====
section
/-! DEFINITION. Field and buffer access (40_field_and_buffer_access.md): RDF, WRF, CLR, PUSH, LDB, GETLEN, SETPAY.
A term with no encoding (`Instr.wf` false) is answered as its words are, with IllegalCommand (R88, R258; log entry 9). -/

namespace Sys2Proof.Machine

/-- RDF (R112): read a field. -/
def execRdf (c : Ctx) (r : Reg) (s : State) : Host.Outcome State Fault Refusal :=
  if r.existsIn c then
    match s.readField c r with
    | none => raise .notConstructed s
    | some v => respond v s
  else raise .illegalCommand s

/-- WRF (R113): write a field, validated by width and by nothing else. -/
def execWrf (c : Ctx) (r : Reg) (v : Word) (s : State) : Host.Outcome State Fault Refusal :=
  if r.writableIn c then
    if s.valid c then
      if fits r.width v then respond 0 (s.writeField c r v) else raise .fieldOverflowError s
    else raise .notConstructed s
  else raise .illegalCommand s

/-- CLR (R116): empty SCRATCH. -/
def execClr (s : State) : Host.Outcome State Fault Refusal :=
  respond 0 (s.setBuf .scratch [])

/-- PUSH (R117): append one byte to SCRATCH; the operand check comes before the capacity check (log entry 8). -/
def execPush (byte : Word) (s : State) : Host.Outcome State Fault Refusal :=
  if fits 8 byte then
    if s.mem.scratch.length < s.params.scratchCap then
      respond (lengthWord (s.mem.scratch.length + 1)) (s.setBuf .scratch (s.mem.scratch ++ [byte.setWidth 8]))
    else raise .bufferRangeError s
  else raise .fieldOverflowError s

/-- LDB (R118): read one byte of a buffer; VALID is not consulted. -/
def execLdb (b : Buf) (index : Word) (s : State) : Host.Outcome State Fault Refusal :=
  match s.mem.read b index.toNat with
  | none => raise .bufferRangeError s
  | some v => respond (v.setWidth 32) s

/-- GETLEN (R119): read a buffer's length; VALID is not consulted. -/
def execGetLen (b : Buf) (s : State) : Host.Outcome State Fault Refusal :=
  respond (lengthWord (s.mem.buf b).length) s

/-- SETPAY (R120): copy SCRATCH, padded for PING, into the context's payload buffer. -/
def execSetPay (c : Ctx) (s : State) : Host.Outcome State Fault Refusal :=
  match payBuf c with
  | none => raise .illegalCommand s
  | some b =>
    if s.valid c then
      if (padPayload c s.mem.scratch).length ≤ s.params.payCap then
        respond (lengthWord (padPayload c s.mem.scratch).length) (s.setBuf b (padPayload c s.mem.scratch))
      else raise .bufferRangeError s
    else raise .notConstructed s

end Sys2Proof.Machine
end

