-- ==== Sys2Proof/Machine/Checksum.lean ====
section
/-! DEFINITION. The checksum engine and CSUM (41_checksum.md). -/

namespace Sys2Proof.Machine

/-- The unbounded sum of the 16-bit big-endian words of a byte list; an odd last byte is padded with one zero byte
(R62, R130). -/
def wordSum : List Byte → Nat
  | [] => 0
  | [hi] => hi.toNat * 256
  | hi :: lo :: rest => hi.toNat * 256 + lo.toNat + wordSum rest

/-- The loop of R130: while the sum has a carry out of bit 15, fold it back in.  The first argument bounds the number of
passes (log entry 11). -/
def foldCarry : Nat → Nat → Nat
  | 0, sum => sum
  | fuel + 1, sum => if sum < 0x10000 then sum else foldCarry fuel (sum % 0x10000 + sum / 0x10000)

/-- `ocsum(L)` of R130: the bitwise complement of the folded sum.  Each pass makes a sum that has a carry smaller, so as
many passes as the sum itself are enough. -/
def ocsum (l : List Byte) : BitVec 16 :=
  BitVec.ofNat 16 (0xFFFF - foldCarry (wordSum l) (wordSum l))

/-- CSUM (R133): the checksum of SCRATCH.  No context is consulted and nothing is written. -/
def execCsum (s : State) : Host.Outcome State Fault Refusal :=
  respond ((ocsum s.mem.scratch).setWidth 32) s

end Sys2Proof.Machine
end

