-- ==== Sys2Proof/Machine/Ip.lean ====
section
/-! DEFINITION. The IPv4 header builder (42_ip_builder.md): CONSTRUCT.IP, BUILD.IP, SETSRC, SETDST, and the shared parts
the transport builders delegate to. -/

namespace Sys2Proof.Machine

/-- `ip_init(c, p)` of R151: the construction of an IP bank with protocol `p`. -/
def ipInit (p : Params) (proto : BitVec 8) : IpBank where
  version := 4
  ihl := 5
  dscp := 0
  ecn := 0
  totlen := 0
  ident := 1
  flags := 0
  fragoff := 0
  ttl := p.ttlInit
  proto := proto
  hcsum := 0
  src := 0
  dst := 0

/-- `ip_serialize(c)` of R153, with the sub-byte packing of R152: always 20 bytes, whatever `IHL` holds. -/
def ipSerialize (b : IpBank) : List Byte :=
  [b.version ++ b.ihl, b.dscp ++ b.ecn] ++ be16 b.totlen ++ be16 b.ident ++ be16 (b.flags ++ b.fragoff) ++
    [b.ttl, b.proto] ++ be16 b.hcsum ++ be32 b.src ++ be32 b.dst

/-- The total length a build computes: `IHL*4 + plen` (R161 step 1), as a natural number. -/
def ipTotal (b : IpBank) (plen : Nat) : Nat := b.ihl.toNat * 4 + plen

/-- `ip_precheck(c, plen)` of R154: the fault an IP build is refused with, if any, before any state is changed. -/
def ipPrecheck (b : IpBank) (plen : Nat) : Option Status :=
  if 0xFFFF < plen then some .fieldOverflowError
  else if 0xFFFF < ipTotal b plen then some .fieldOverflowError
  else none

/-- `succ_id(v)` of R155: 0xFFFF is followed by 1. -/
def succId (v : BitVec 16) : BitVec 16 := if v = 0xFFFF then 1 else v + 1

/-- The bank with the total length and the header checksum of the header to emit in place (R161 steps 1 to 4). -/
def ipComputed (b : IpBank) (plen : Nat) : IpBank :=
  let b0 := { b with totlen := BitVec.ofNat 16 (ipTotal b plen), hcsum := 0 }
  { b0 with hcsum := ocsum (ipSerialize b0) }

/-- `ip_emit(c, plen)` of R161: the bank after the build and the 20 bytes emitted.  The header carries the
identification its checksum covers; the successor is for the next build (90_conflicts.md C3). -/
def ipEmit (b : IpBank) (plen : Nat) : IpBank × List Byte :=
  let b1 := ipComputed b plen
  ({ b1 with ident := succId b1.ident }, ipSerialize b1)

/-- CONSTRUCT.IP (R150). -/
def execConstructIp (proto : Word) (s : State) : Host.Outcome State Fault Refusal :=
  if isProtocolNumber proto then
    respond 0 { s with ip := some (ipInit s.params (proto.setWidth 8)) }
  else raise .constructionError s

/-- BUILD.IP (R156): a header only; no payload byte is involved. -/
def execBuildIp (len : Word) (s : State) : Host.Outcome State Fault Refusal :=
  match s.ip with
  | none => raise .notConstructed s
  | some b =>
    match ipPrecheck b len.toNat with
    | some e => raise e s
    | none =>
      let r := ipEmit b len.toNat
      respond 20 ({ s with ip := some r.1 }.setBuf .out r.2)

/-- The shared body of the two address setters (R158, R159): parse SCRATCH, then write the address into the context's IP
bank; a context that is not constructed is answered first (R258). -/
def setAddress (c : Ctx) (put : Word → IpBank → IpBank) (s : State) : Host.Outcome State Fault Refusal :=
  if s.valid c then
    match parseQuad s.mem.scratch with
    | none => raise .addressFormatError s
    | some a => respond a (s.mapIpBank c (put a))
  else raise .notConstructed s

/-- SETSRC (R158). -/
def execSetSrc (c : Ctx) (s : State) : Host.Outcome State Fault Refusal :=
  setAddress c (fun a b => { b with src := a }) s

/-- SETDST (R159). -/
def execSetDst (c : Ctx) (s : State) : Host.Outcome State Fault Refusal :=
  setAddress c (fun a b => { b with dst := a }) s

end Sys2Proof.Machine
end

