-- ==== Sys2Proof/Machine/Icmp.lean ====
section
/-! DEFINITION. The ICMP message builder (44_icmp_builder.md): CONSTRUCT.ICMP, BUILD.ICMP, and the message build that
Ping shares. -/

namespace Sys2Proof.Machine

/-- The construction of an ICMP bank (R210, R230): code and checksum 0. -/
def icmpInit (icmpType : BitVec 8) (option : BitVec 32) : IcmpBank where
  icmpType := icmpType
  code := 0
  icsum := 0
  option := option

/-- `icmp_serialize(c)` of R212: the 8-byte header of R211, then the payload. -/
def icmpSerialize (b : IcmpBank) (p : List Byte) : List Byte :=
  [b.icmpType, b.code] ++ be16 b.icsum ++ be32 b.option ++ p

/-- The ICMP bank with the checksum of the message to emit in place (R213): over header and payload, no pseudo-header. -/
def icmpComputed (b : IcmpBank) (p : List Byte) : IcmpBank :=
  let b0 := { b with icsum := 0 }
  { b0 with icsum := ocsum (icmpSerialize b0 p) }

/-- `icmp_build(c)` of R213: the context after the build and the bytes of OUT. -/
def icmpBuild (x : IcmpContext) (p : List Byte) : IcmpContext × List Byte :=
  let b := icmpComputed x.icmp p
  let m := icmpSerialize b p
  let r := ipEmit x.ip m.length
  ({ ip := r.1, icmp := b }, r.2 ++ m)

/-- CONSTRUCT.ICMP (R210). -/
def execConstructIcmp (icmpType : Word) (s : State) : Host.Outcome State Fault Refusal :=
  if isIcmpType icmpType then
    respond 0
      ({ s with icmp := some { ip := ipInit s.params 1, icmp := icmpInit (icmpType.setWidth 8) 0 } }.setBuf .icmpPay [])
  else raise .constructionError s

/-- BUILD.ICMP (R214). -/
def execBuildIcmp (s : State) : Host.Outcome State Fault Refusal :=
  match s.icmp with
  | none => raise .notConstructed s
  | some x =>
    match ipPrecheck x.ip (8 + s.mem.icmpPay.length) with
    | some e => raise e s
    | none =>
      let r := icmpBuild x s.mem.icmpPay
      respond (lengthWord r.2.length) ({ s with icmp := some r.1 }.setBuf .out r.2)

end Sys2Proof.Machine
end

