-- ==== Sys2Proof/Machine/Ping.lean ====
section
/-! DEFINITION. The Ping specialisation (45_ping.md): CONSTRUCT.PING and BUILD.PING. -/

namespace Sys2Proof.Machine

/-- `OPTION` after the increment of R233: the low half plus 1 modulo 2^16, the identifier not disturbed (R231, R234). -/
def nextEcho (option : BitVec 32) : BitVec 32 :=
  option.extractLsb' 16 16 ++ (option.extractLsb' 0 16 + 1)

/-- CONSTRUCT.PING (R230): echo-request (8), the identifier high and sequence 0 low in `OPTION`, the default payload. -/
def execConstructPing (ident : Word) (s : State) : Host.Outcome State Fault Refusal :=
  if fits 16 ident then
    respond 0
      ({ s with
          ping := some { ip := ipInit s.params 1, icmp := icmpInit 8 (ident.setWidth 16 ++ (0 : BitVec 16)) } }.setBuf
        .pingPay s.params.pingDefaultPayload)
  else raise .fieldOverflowError s

/-- BUILD.PING (R233): the increment comes before the serialization and after the checks. -/
def execBuildPing (s : State) : Host.Outcome State Fault Refusal :=
  match s.ping with
  | none => raise .notConstructed s
  | some x =>
    match ipPrecheck x.ip (8 + s.mem.pingPay.length) with
    | some e => raise e s
    | none =>
      let r := icmpBuild { x with icmp := { x.icmp with option := nextEcho x.icmp.option } } s.mem.pingPay
      respond (lengthWord r.2.length) ({ s with ping := some r.1 }.setBuf .out r.2)

end Sys2Proof.Machine
end

