-- ==== Sys2Proof/Machine/Flags.lean ====
section
/-! DEFINITION. The block has no flags and no condition codes (10_state.md R22): no command leaves one behind, and there
is nothing to compute.  This file holds what stands nearest: the code of a status, and the packing of the nine TCP flag
registers into their two bytes. -/

namespace Sys2Proof.Machine

/-- `rsp_status` of a status (R250).  Codes 8 to 15 are never produced. -/
def Status.code : Status → BitVec 4
  | .ok => 0
  | .constructionError => 1
  | .addressFormatError => 2
  | .unsupportedFeatureError => 3
  | .fieldOverflowError => 4
  | .illegalCommand => 5
  | .notConstructed => 6
  | .bufferRangeError => 7

/-- Byte 12 of the TCP header (R181): `HLW :: RSVD :: NS`. -/
def TcpBank.byte12 (b : TcpBank) : Byte := b.hlw ++ b.rsvd ++ b.ns

/-- Byte 13 of the TCP header (R181): CWR is bit 7, FIN is bit 0. -/
def TcpBank.byte13 (b : TcpBank) : Byte :=
  b.cwr ++ b.ece ++ b.urg ++ b.ack ++ b.psh ++ b.rst ++ b.syn ++ b.fin

end Sys2Proof.Machine
end

