-- ==== Sys2Proof/Machine/Tcp.lean ====
section
/-! DEFINITION. The TCP header builder and the pseudo-header combiner (43_tcp_builder.md): CONSTRUCT.TCP, BUILD.TCP,
SETSPORT, SETDPORT. -/

namespace Sys2Proof.Machine

/-- The construction of the TCP bank (R180): the operand is the sequence number, `HLW` is 5, the rest 0. -/
def tcpInit (seq : BitVec 32) : TcpBank where
  sport := 0
  dport := 0
  seq := seq
  acknum := 0
  hlw := 5
  rsvd := 0
  ns := 0
  cwr := 0
  ece := 0
  urg := 0
  ack := 0
  psh := 0
  rst := 0
  syn := 0
  fin := 0
  window := 0
  tcsum := 0
  urgptr := 0
  options := 0

/-- `tcp_serialize()` of R182: always 20 bytes, whatever `HLW` holds; `OPTIONS` is not serialized. -/
def tcpSerialize (b : TcpBank) : List Byte :=
  be16 b.sport ++ be16 b.dport ++ be32 b.seq ++ be32 b.acknum ++ [b.byte12, b.byte13] ++
    be16 b.window ++ be16 b.tcsum ++ be16 b.urgptr

/-- The segment length of R183: from the `HLW` register, not from the bytes emitted. -/
def segLen (b : TcpBank) (payLen : Nat) : Nat := b.hlw.toNat * 4 + payLen

/-- `pseudo(src, dst, proto, seglen)` of R184: 12 bytes, never transmitted. -/
def pseudo (src dst : BitVec 32) (proto : BitVec 8) (seglen : BitVec 16) : List Byte :=
  be32 src ++ be32 dst ++ [0x00, proto] ++ be16 seglen

/-- The TCP bank with the checksum of the segment to emit in place (R185, R186 steps 1 to 6). -/
def tcpComputed (x : TcpContext) (p : List Byte) : TcpBank :=
  let t0 := { x.tcp with tcsum := 0 }
  let ph := pseudo x.ip.src x.ip.dst x.ip.proto (BitVec.ofNat 16 (segLen x.tcp p.length))
  { t0 with tcsum := ocsum (ph ++ tcpSerialize t0 ++ p) }

/-- The checks of BUILD.TCP after VALID, in the order of R186: options, segment length, IP lengths. -/
def tcpPrecheck (x : TcpContext) (payLen : Nat) : Option Status :=
  if x.tcp.options ≠ 0 then some .unsupportedFeatureError
  else if 0xFFFF < segLen x.tcp payLen then some .fieldOverflowError
  else ipPrecheck x.ip (20 + payLen)

/-- The effects of BUILD.TCP (R186 steps 1 to 9): the context after the build and the bytes of OUT. -/
def tcpBuild (x : TcpContext) (p : List Byte) : TcpContext × List Byte :=
  let t := tcpComputed x p
  let r := ipEmit x.ip (20 + p.length)
  ({ ip := r.1, tcp := t }, r.2 ++ tcpSerialize t ++ p)

/-- CONSTRUCT.TCP (R180): every operand is a legal sequence number. -/
def execConstructTcp (seq : Word) (s : State) : Host.Outcome State Fault Refusal :=
  respond 0 ({ s with tcp := some { ip := ipInit s.params 6, tcp := tcpInit seq } }.setBuf .tcpPay [])

/-- BUILD.TCP (R186). -/
def execBuildTcp (s : State) : Host.Outcome State Fault Refusal :=
  match s.tcp with
  | none => raise .notConstructed s
  | some x =>
    match tcpPrecheck x s.mem.tcpPay.length with
    | some e => raise e s
    | none =>
      let r := tcpBuild x s.mem.tcpPay
      respond (lengthWord r.2.length) ({ s with tcp := some r.1 }.setBuf .out r.2)

/-- The shared body of the two port setters (R188, R189). -/
def setPort (port : Word) (put : BitVec 16 → TcpBank → TcpBank) (s : State) : Host.Outcome State Fault Refusal :=
  if s.valid .tcp then
    if fits 16 port then respond 0 (s.mapTcpBank (put (port.setWidth 16)))
    else raise .fieldOverflowError s
  else raise .notConstructed s

/-- SETSPORT (R188). -/
def execSetSport (port : Word) (s : State) : Host.Outcome State Fault Refusal :=
  setPort port (fun v b => { b with sport := v }) s

/-- SETDPORT (R189). -/
def execSetDport (port : Word) (s : State) : Host.Outcome State Fault Refusal :=
  setPort port (fun v b => { b with dport := v }) s

end Sys2Proof.Machine
end

