-- ==== Sys2Proof/Machine/Dispatch.lean ====
section
/-! DEFINITION. One arm per command, each one direct call of its meaning. -/

namespace Sys2Proof.Machine

def exec (i : Instr) (s : State) : Host.Outcome State Fault Refusal :=
  match i with
  | .csum => Sys2Proof.Machine.execCsum s
  | .constructIp proto => Sys2Proof.Machine.execConstructIp proto s
  | .constructTcp seq => Sys2Proof.Machine.execConstructTcp seq s
  | .constructIcmp icmpType => Sys2Proof.Machine.execConstructIcmp icmpType s
  | .constructPing ident => Sys2Proof.Machine.execConstructPing ident s
  | .buildIp len => Sys2Proof.Machine.execBuildIp len s
  | .buildTcp => Sys2Proof.Machine.execBuildTcp s
  | .buildIcmp => Sys2Proof.Machine.execBuildIcmp s
  | .buildPing => Sys2Proof.Machine.execBuildPing s
  | .setSrc ctx => Sys2Proof.Machine.execSetSrc ctx s
  | .setDst ctx => Sys2Proof.Machine.execSetDst ctx s
  | .setSport port => Sys2Proof.Machine.execSetSport port s
  | .setDport port => Sys2Proof.Machine.execSetDport port s
  | .setPay ctx => Sys2Proof.Machine.execSetPay ctx s
  | .rdf ctx reg => Sys2Proof.Machine.execRdf ctx reg s
  | .wrf ctx reg value => Sys2Proof.Machine.execWrf ctx reg value s
  | .clr => Sys2Proof.Machine.execClr s
  | .push byte => Sys2Proof.Machine.execPush byte s
  | .ldb buf index => Sys2Proof.Machine.execLdb buf index s
  | .getLen buf => Sys2Proof.Machine.execGetLen buf s

end Sys2Proof.Machine
end

