-- ==== Sys2Proof/Machine/Port.lean ====
section
/-! DEFINITION. The command port and the reset input (70_reset_and_hazards.md R280, R284): what a step does before and
around a command. -/

namespace Sys2Proof.Machine

/-- `rsp_valid` (R284). -/
def State.rspValid (s : State) : Bool := s.rsp.isSome

/-- `cmd_ready` (R284): low from acceptance until the response has been taken. -/
def State.cmdReady (s : State) : Bool := !s.rspValid

/-- The host takes the response that stands, if one does (R284). -/
def State.takeResponse (s : State) : State := { s with rsp := none }

/-- The host's next event has happened; `rest` is what it does afterwards. -/
def State.withHost (s : State) (rest : List HostEvent) : State := { s with host := rest }

/-- The block accepts a command.  It accepts none before the response to the one before has been taken (R68, R284), so
a response still standing is taken first (log entry 4). -/
def State.accept (s : State) (rest : List HostEvent) : State := s.takeResponse.withHost rest

/-- Hardware reset (R280, R283): everything is cleared, from any state; a response that stood is gone.  The parameters
and what the host does next are inputs, not state, and stay (R20; log entry 5). -/
def State.hardReset (s : State) (rest : List HostEvent) : State :=
  { State.reset with params := s.params, host := rest }

/-- The host presents a command ahead of everything else it does (log entry 3). -/
def State.present (s : State) (cmd arg : Word) : State := { s with host := .command cmd arg :: s.host }

end Sys2Proof.Machine
end

