-- ==== Sys2Proof/Machine/Step.lean ====
section
/-! DEFINITION. One step: the host's next event.  A command is one step (70_reset_and_hazards.md R292): accepted, decoded,
executed and answered (60_exceptions.md R258). -/

namespace Sys2Proof.Machine

/-- With no event left the block waits for a command and holds its state (R267, R282). -/
def step (s : State) : Host.Outcome State Fault Refusal :=
  match s.host with
  | [] => .next s
  | .reset :: rest => .next (s.hardReset rest)
  | .takeResponse :: rest => .next (s.takeResponse.withHost rest)
  | .command cmd arg :: rest =>
    match decode cmd arg with
    | .ok i => exec i (s.accept rest)
    | .error _ => raise .illegalCommand (s.accept rest)

/-- The state in which the host presents the given command next: `CMD` is bits 31..0 of `w`, `ARG` bits 63..32. -/
def State.withFetchWord (s : State) (nbits w : Nat) : State :=
  s.present (tableCmd nbits w) (tableArg nbits w)

end Sys2Proof.Machine
end

