-- ==== Sys2Proof/Machine/Assembly.lean ====
section
/-! DEFINITION. What the spec says beside the block's own commands: the assembler syntax (30_encoding.md R94) and the
three pseudo-instructions (R95).  No step of the machine depends on this file. -/

namespace Sys2Proof

/-- A pseudo-instruction (R95).  The text of LOADS is its list of characters.  R95 gives the operands of PUSHB and
LOADPAY no width; that they are 8-bit bytes is the model's choice (log entry 15, DESIGN CHOICE). -/
inductive Pseudo where
  | pushB (bytes : List Byte)
  | loadS (text : List Char)
  | loadPay (ctx : Ctx) (bytes : List Byte)
  deriving DecidableEq, Repr

/-- PUSHB (R95): one PUSH for each byte, in order. -/
def pushAll (bytes : List Byte) : List Instr := bytes.map fun b => .push (b.setWidth 32)

/-- The commands a pseudo-instruction stands for (R95). -/
def Pseudo.expand : Pseudo → List Instr
  | .pushB bytes => pushAll bytes
  | .loadS text => .clr :: text.map fun c => .push (BitVec.ofNat 32 c.toNat)
  | .loadPay c bytes => .clr :: pushAll bytes ++ [.setPay c]

/-- The name of a context in assembler text (R85, R94). -/
def Ctx.name : Ctx → String
  | .ip => "IP"
  | .tcp => "TCP"
  | .icmp => "ICMP"
  | .ping => "PING"

/-- The name of a buffer in assembler text (R85, R94). -/
def Buf.name : Buf → String
  | .scratch => "SCRATCH"
  | .tcpPay => "TCP_PAY"
  | .icmpPay => "ICMP_PAY"
  | .pingPay => "PING_PAY"
  | .out => "OUT"

/-- The name of a register in assembler text (R25, R29, R33, R94). -/
def Reg.name : Reg → String
  | .ip .version => "VERSION"
  | .ip .ihl => "IHL"
  | .ip .dscp => "DSCP"
  | .ip .ecn => "ECN"
  | .ip .totlen => "TOTLEN"
  | .ip .ident => "IDENT"
  | .ip .flags => "FLAGS"
  | .ip .fragoff => "FRAGOFF"
  | .ip .ttl => "TTL"
  | .ip .proto => "PROTO"
  | .ip .hcsum => "HCSUM"
  | .ip .src => "SRC"
  | .ip .dst => "DST"
  | .tcp .sport => "SPORT"
  | .tcp .dport => "DPORT"
  | .tcp .seq => "SEQ"
  | .tcp .acknum => "ACKNUM"
  | .tcp .hlw => "HLW"
  | .tcp .rsvd => "RSVD"
  | .tcp .ns => "NS"
  | .tcp .cwr => "CWR"
  | .tcp .ece => "ECE"
  | .tcp .urg => "URG"
  | .tcp .ack => "ACK"
  | .tcp .psh => "PSH"
  | .tcp .rst => "RST"
  | .tcp .syn => "SYN"
  | .tcp .fin => "FIN"
  | .tcp .window => "WINDOW"
  | .tcp .tcsum => "TCSUM"
  | .tcp .urgptr => "URGPTR"
  | .tcp .options => "OPTIONS"
  | .icmp .icmpType => "TYPE"
  | .icmp .code => "CODE"
  | .icmp .icsum => "ICSUM"
  | .icmp .option => "OPTION"

/-- The open operands of a command, in the order of R94; numbers are written in decimal. -/
def Instr.operands : Instr → List String
  | .csum => []
  | .constructIp a => [Nat.repr a.toNat]
  | .constructTcp a => [Nat.repr a.toNat]
  | .constructIcmp a => [Nat.repr a.toNat]
  | .constructPing a => [Nat.repr a.toNat]
  | .buildIp a => [Nat.repr a.toNat]
  | .buildTcp => []
  | .buildIcmp => []
  | .buildPing => []
  | .setSrc c => [c.name]
  | .setDst c => [c.name]
  | .setSport a => [Nat.repr a.toNat]
  | .setDport a => [Nat.repr a.toNat]
  | .setPay c => [c.name]
  | .rdf c r => [c.name, r.name]
  | .wrf c r v => [c.name, r.name, Nat.repr v.toNat]
  | .clr => []
  | .push a => [Nat.repr a.toNat]
  | .ldb b i => [b.name, Nat.repr i.toNat]
  | .getLen b => [b.name]

/-- A command in assembler text (R94): the mnemonic, then the operands separated by commas. -/
def Instr.assembly (i : Instr) : String :=
  match i.operands with
  | [] => i.mnemonic
  | ops => i.mnemonic ++ " " ++ String.intercalate ", " ops

namespace Machine

/-- Issue commands one after another (R21: each after the response to the one before). -/
def runCommands : List Instr → State → Host.Outcome State Fault Refusal
  | [], s => .next s
  | i :: is, s =>
    match exec i s with
    | .next t => runCommands is t
    | .fault r => .fault r
    | .refused r => .refused r

/-- The response that stands has status OK, or none stands. -/
def State.answeredOk (s : State) : Bool :=
  match s.rsp with
  | none => true
  | some q => q.status == .ok

/-- Issue the commands of an expansion: if one faults, the expansion stops there (R95). -/
def runExpansion : List Instr → State → Host.Outcome State Fault Refusal
  | [], s => .next s
  | i :: is, s =>
    match exec i s with
    | .next t => if t.answeredOk then runExpansion is t else .next t
    | .fault r => .fault r
    | .refused r => .refused r

end Machine

end Sys2Proof
end

