-- ==== Sys2Proof/Safety.lean ====
section
/-! DEFINITION. The terms the claims use: the invariant of the machine, what a step leaves unchanged, what a context can
see, and the wire layouts of 42, 43 and 44 written a second time, as arithmetic, independently of the serializers. -/

namespace Sys2Proof

/-- The context a command names in its `unit` field: formats C and F (R82, R254). -/
def Instr.context : Instr → Option Ctx
  | .csum => none
  | .constructIp _ => some .ip
  | .constructTcp _ => some .tcp
  | .constructIcmp _ => some .icmp
  | .constructPing _ => some .ping
  | .buildIp _ => some .ip
  | .buildTcp => some .tcp
  | .buildIcmp => some .icmp
  | .buildPing => some .ping
  | .setSrc c => some c
  | .setDst c => some c
  | .setSport _ => some .tcp
  | .setDport _ => some .tcp
  | .setPay c => some c
  | .rdf c _ => some c
  | .wrf c _ _ => some c
  | .clr => none
  | .push _ => none
  | .ldb _ _ => none
  | .getLen _ => none

/-- The conditions (a) to (h) of R88 on the fields of `CMD` and the `ARG`, written in the numbers of the rule, of R36, R84
and R86. -/
abbrev illegalFields (op unit sel low arg : Nat) : Prop :=
  (op ∉ [0x01, 0x10, 0x11, 0x12, 0x13, 0x14, 0x15, 0x16, 0x20, 0x21, 0x30, 0x31, 0x32, 0x33]) ∨
  (low ≠ 0) ∨
  (op ∉ [0x20, 0x21] ∧ sel ≠ 0) ∨
  (op = 0x01 ∧ unit ≠ 0) ∨
  (op ∈ [0x10, 0x11, 0x12, 0x13, 0x20, 0x21] ∧ 3 < unit ∨
    op ∈ [0x14, 0x15] ∧ unit ≠ 1 ∨
    op = 0x16 ∧ unit ∉ [1, 2, 3] ∨
    op ∈ [0x30, 0x31] ∧ unit ≠ 0 ∨
    op ∈ [0x32, 0x33] ∧ 4 < unit) ∨
  (op ∈ [0x20, 0x21] ∧
    ¬ (sel ≤ 0x0C ∨ unit = 1 ∧ 0x20 ≤ sel ∧ sel ≤ 0x32 ∨ (unit = 2 ∨ unit = 3) ∧ 0x40 ≤ sel ∧ sel ≤ 0x43)) ∨
  (op = 0x21 ∧
    (sel ∈ [0x04, 0x05, 0x0A] ∨ sel = 0x09 ∧ unit ≠ 0 ∨ unit = 1 ∧ sel = 0x30 ∨
      (unit = 2 ∨ unit = 3) ∧ sel = 0x42 ∨ unit = 3 ∧ (sel = 0x40 ∨ sel = 0x43))) ∨
  (arg ≠ 0 ∧ (op ∈ [0x01, 0x12, 0x13, 0x16, 0x20, 0x30, 0x33] ∨ op = 0x11 ∧ unit ∈ [1, 2, 3]))

/-- The same of the two words (R81, R88). -/
abbrev illegalByRule (cmd arg : Word) : Prop :=
  illegalFields (cmd.toNat / 2 ^ 24) (cmd.toNat / 2 ^ 16 % 2 ^ 8) (cmd.toNat / 2 ^ 8 % 2 ^ 8) (cmd.toNat % 2 ^ 8) arg.toNat

/-- The command is a CONSTRUCT of context `c`. -/
def Instr.constructs (i : Instr) (c : Ctx) : Prop :=
  match i with
  | .constructIp _ => c = .ip
  | .constructTcp _ => c = .tcp
  | .constructIcmp _ => c = .icmp
  | .constructPing _ => c = .ping
  | _ => False

/-- The command is a BUILD of context `c`. -/
def Instr.builds (i : Instr) (c : Ctx) : Prop :=
  match i with
  | .buildIp _ => c = .ip
  | .buildTcp => c = .tcp
  | .buildIcmp => c = .icmp
  | .buildPing => c = .ping
  | _ => False

/-- The BUILD of a context; the operand is used by context IP alone (R86). -/
def buildOf (c : Ctx) (len : Word) : Instr :=
  match c with
  | .ip => .buildIp len
  | .tcp => .buildTcp
  | .icmp => .buildIcmp
  | .ping => .buildPing

/-- The position of a register's most significant bit in what a BUILD of its context emits, counted in bits from the
start of OUT (R153, R182, R212); `OPTIONS` is emitted nowhere (R31). -/
def Reg.wireBit : Reg → Option Nat
  | .ip .version => some 0
  | .ip .ihl => some 4
  | .ip .dscp => some 8
  | .ip .ecn => some 14
  | .ip .totlen => some 16
  | .ip .ident => some 32
  | .ip .flags => some 48
  | .ip .fragoff => some 51
  | .ip .ttl => some 64
  | .ip .proto => some 72
  | .ip .hcsum => some 80
  | .ip .src => some 96
  | .ip .dst => some 128
  | .tcp .sport => some 160
  | .tcp .dport => some 176
  | .tcp .seq => some 192
  | .tcp .acknum => some 224
  | .tcp .hlw => some 256
  | .tcp .rsvd => some 260
  | .tcp .ns => some 263
  | .tcp .cwr => some 264
  | .tcp .ece => some 265
  | .tcp .urg => some 266
  | .tcp .ack => some 267
  | .tcp .psh => some 268
  | .tcp .rst => some 269
  | .tcp .syn => some 270
  | .tcp .fin => some 271
  | .tcp .window => some 272
  | .tcp .tcsum => some 288
  | .tcp .urgptr => some 304
  | .tcp .options => none
  | .icmp .icmpType => some 160
  | .icmp .code => some 168
  | .icmp .icsum => some 176
  | .icmp .option => some 192

/-- A byte list read as one big-endian number. -/
def bytesNat (l : List Byte) : Nat := l.foldl (fun n b => n * 256 + b.toNat) 0

/-- The number in `width` bits of a byte list, the first of them bit `first`, bits counted most significant first. -/
def bitsAt (l : List Byte) (first width : Nat) : Nat :=
  bytesNat (l.take ((first + width + 7) / 8)) / 2 ^ ((first + width + 7) / 8 * 8 - (first + width)) % 2 ^ width

/-- The low eight bits of a number, as a byte. -/
def natByte (n : Nat) : Byte := BitVec.ofNat 8 n

/-- The unbounded sum `S` of R130, written with indices: word `k` is byte `2k` times 256 plus byte `2k+1`, a missing byte
counting as zero. -/
def indexedSum (l : List Byte) : Nat :=
  ((List.range ((l.length + 1) / 2)).map fun k => (l.getD (2 * k) 0).toNat * 256 + (l.getD (2 * k + 1) 0).toNat).sum

/-- The folded sum in closed form (R131 (c)). -/
def residue (n : Nat) : Nat := if n = 0 then 0 else if n % 0xFFFF = 0 then 0xFFFF else n % 0xFFFF

/-- A text the grammar of R160 calls a group: one to three ASCII digits whose decimal value is at most 255; the value is
the sum of the digits times their powers of ten. -/
def isGroup (g : List Byte) (value : Nat) : Prop :=
  (∀ b ∈ g, 0x30 ≤ b.toNat ∧ b.toNat ≤ 0x39) ∧ value ≤ 255 ∧
    ((∃ a, g = [a] ∧ value = a.toNat - 0x30) ∨
     (∃ a b, g = [a, b] ∧ value = (a.toNat - 0x30) * 10 + (b.toNat - 0x30)) ∨
     (∃ a b c, g = [a, b, c] ∧ value = (a.toNat - 0x30) * 100 + (b.toNat - 0x30) * 10 + (c.toNat - 0x30)))

namespace Machine

/-! ### The invariant -/

/-- What every state a run reaches has: the parameters meet R4, every buffer has its form (R40, R232), OUT is empty or
holds a header (R153, R154), no constructed context has `IDENT` 0 (R27, R155), and the registers fixed at construction
keep their values (R37, R34). -/
structure State.Inv (s : State) : Prop where
  params : s.params.wf
  mem : s.mem.wf s.params
  out : s.mem.out.length = 0 ∨ 20 ≤ s.mem.out.length ∧ s.mem.out.length ≤ 65555
  ident : ∀ c b, s.ipBank c = some b → b.ident ≠ 0
  protoTcp : ∀ b, s.ipBank .tcp = some b → b.proto = 6
  protoIcmp : ∀ b, s.ipBank .icmp = some b → b.proto = 1
  protoPing : ∀ b, s.ipBank .ping = some b → b.proto = 1
  pingType : ∀ b, s.icmpBank .ping = some b → b.icmpType = 8

/-- What stands in OUT, if anything does, begins with a header whose checksum verifies (R132, R161). -/
def State.outVerifies (s : State) : Prop := s.mem.out = [] ∨ ocsum (s.mem.out.take 20) = 0

/-! ### What a command answers -/

/-- The response that stands in `t` is OK. -/
def State.isOk (t : State) : Prop := ∃ v, t.rsp = some { status := .ok, result := v }

/-- The state after a command that faults with `e`: the state before it, and the response (R257). -/
def faulted (s : State) (e : Status) : State := { s with rsp := some { status := e, result := 0 } }

/-! ### Frames -/

/-- Every register of every context reads as before (VALID bits included: a context that is not constructed reads as
absent), but for those `changed` names. -/
def sameRegs (s t : State) (changed : Ctx → Reg → Prop) : Prop :=
  ∀ c r, ¬ changed c r → t.readField c r = s.readField c r

/-- Every byte of every buffer reads as before, but for those `changed` names. -/
def sameBytes (s t : State) (changed : Buf → Nat → Prop) : Prop :=
  ∀ b i, ¬ changed b i → t.mem.read b i = s.mem.read b i

/-- The parameters and what the host does next are unchanged. -/
def sameInputs (s t : State) : Prop := t.params = s.params ∧ t.host = s.host

/-- The registers of an IP bank every successful BUILD writes (R161). -/
def ipBuildReg (r : Reg) : Prop := r = .ip .totlen ∨ r = .ip .hcsum ∨ r = .ip .ident

/-! ### What one context can see -/

/-- Two states look alike to a command that names context `c`: the registers of `c`, its payload buffer, SCRATCH and the
parameters are the same; other contexts, other payloads, OUT and the ports may differ. -/
def sameView (c : Ctx) (s s' : State) : Prop :=
  s.ipBank c = s'.ipBank c ∧ s.tcpBank c = s'.tcpBank c ∧ s.icmpBank c = s'.icmpBank c ∧
    (∀ b, payBuf c = some b → s.mem.buf b = s'.mem.buf b) ∧
    s.mem.scratch = s'.mem.scratch ∧ s.params = s'.params

/-! ### Wire layouts as arithmetic -/

/-- The 20 bytes of the IPv4 header, byte by byte (R152, R153). -/
def wireIp (b : IpBank) : List Byte :=
  [natByte (b.version.toNat * 16 + b.ihl.toNat), natByte (b.dscp.toNat * 4 + b.ecn.toNat),
   natByte (b.totlen.toNat / 256), natByte b.totlen.toNat,
   natByte (b.ident.toNat / 256), natByte b.ident.toNat,
   natByte (b.flags.toNat * 32 + b.fragoff.toNat / 256), natByte b.fragoff.toNat,
   b.ttl, b.proto,
   natByte (b.hcsum.toNat / 256), natByte b.hcsum.toNat,
   natByte (b.src.toNat / 2 ^ 24), natByte (b.src.toNat / 2 ^ 16), natByte (b.src.toNat / 2 ^ 8), natByte b.src.toNat,
   natByte (b.dst.toNat / 2 ^ 24), natByte (b.dst.toNat / 2 ^ 16), natByte (b.dst.toNat / 2 ^ 8), natByte b.dst.toNat]

/-- The 20 bytes of the TCP header, byte by byte (R181, R182). -/
def wireTcp (b : TcpBank) : List Byte :=
  [natByte (b.sport.toNat / 256), natByte b.sport.toNat,
   natByte (b.dport.toNat / 256), natByte b.dport.toNat,
   natByte (b.seq.toNat / 2 ^ 24), natByte (b.seq.toNat / 2 ^ 16), natByte (b.seq.toNat / 2 ^ 8), natByte b.seq.toNat,
   natByte (b.acknum.toNat / 2 ^ 24), natByte (b.acknum.toNat / 2 ^ 16), natByte (b.acknum.toNat / 2 ^ 8),
   natByte b.acknum.toNat,
   natByte (b.hlw.toNat * 16 + b.rsvd.toNat * 2 + b.ns.toNat),
   natByte (b.cwr.toNat * 128 + b.ece.toNat * 64 + b.urg.toNat * 32 + b.ack.toNat * 16 + b.psh.toNat * 8 +
     b.rst.toNat * 4 + b.syn.toNat * 2 + b.fin.toNat),
   natByte (b.window.toNat / 256), natByte b.window.toNat,
   natByte (b.tcsum.toNat / 256), natByte b.tcsum.toNat,
   natByte (b.urgptr.toNat / 256), natByte b.urgptr.toNat]

/-- The 12 bytes of the pseudo-header, byte by byte (R184). -/
def wirePseudo (src dst : BitVec 32) (proto : BitVec 8) (seglen : Nat) : List Byte :=
  [natByte (src.toNat / 2 ^ 24), natByte (src.toNat / 2 ^ 16), natByte (src.toNat / 2 ^ 8), natByte src.toNat,
   natByte (dst.toNat / 2 ^ 24), natByte (dst.toNat / 2 ^ 16), natByte (dst.toNat / 2 ^ 8), natByte dst.toNat,
   0, proto, natByte (seglen / 256), natByte seglen]

/-- The 8 bytes of the ICMP header, byte by byte (R211, R212). -/
def wireIcmp (b : IcmpBank) : List Byte :=
  [b.icmpType, b.code, natByte (b.icsum.toNat / 256), natByte b.icsum.toNat,
   natByte (b.option.toNat / 2 ^ 24), natByte (b.option.toNat / 2 ^ 16), natByte (b.option.toNat / 2 ^ 8),
   natByte b.option.toNat]

/-- The IP bank whose header a build emits (R161): total length and header checksum in place, identification not yet
advanced. -/
def emittedIp (b : IpBank) (plen : Nat) : IpBank :=
  let b0 := { b with totlen := BitVec.ofNat 16 (b.ihl.toNat * 4 + plen), hcsum := 0 }
  { b0 with hcsum := ocsum (wireIp b0) }

/-- The IP bank a build leaves (R161): the emitted one with the identification's successor (R155). -/
def builtIp (b : IpBank) (plen : Nat) : IpBank :=
  { emittedIp b plen with ident := if b.ident.toNat = 0xFFFF then 1 else BitVec.ofNat 16 (b.ident.toNat + 1) }

/-- The TCP bank a build emits and leaves (R183 to R186). -/
def builtTcp (x : TcpContext) (p : List Byte) : TcpBank :=
  let t0 := { x.tcp with tcsum := 0 }
  { t0 with
    tcsum := ocsum (wirePseudo x.ip.src x.ip.dst x.ip.proto (x.tcp.hlw.toNat * 4 + p.length) ++ wireTcp t0 ++ p) }

/-- The ICMP bank a build emits and leaves (R213). -/
def builtIcmp (b : IcmpBank) (p : List Byte) : IcmpBank :=
  let b0 := { b with icsum := 0 }
  { b0 with icsum := ocsum (wireIcmp b0 ++ p) }

end Machine

end Sys2Proof
end

