-- ==== Sys2Proof/Certificates/Slice0/Obligations.lean ====
section
/-! DEFINITION. The statements for the provers, from the numbered rules of spec/. -/

open Sys2Proof Sys2Proof.Machine

/-! ### Decoding and encoding (30_encoding.md) -/

/-- R86: words written out from the table's bit patterns decode to the commands they stand for, one or more of every
family, the example of R94 (`WRF TCP, SYN, 1` is 0x21012D00) among them. -/
def Obligations.WrittenOutWordsDecode : Prop :=
  decode 0x01000000 0 = .ok .csum ∧
  decode 0x10000000 6 = .ok (.constructIp 6) ∧
  decode 0x10030000 0xBEEF = .ok (.constructPing 0xBEEF) ∧
  decode 0x11000000 20 = .ok (.buildIp 20) ∧
  decode 0x11010000 0 = .ok .buildTcp ∧
  decode 0x11020000 0 = .ok .buildIcmp ∧
  decode 0x12010000 0 = .ok (.setSrc .tcp) ∧
  decode 0x13000000 0 = .ok (.setDst .ip) ∧
  decode 0x14010000 0x3039 = .ok (.setSport 0x3039) ∧
  decode 0x16030000 0 = .ok (.setPay .ping) ∧
  decode 0x20000100 0 = .ok (.rdf .ip (.ip .ihl)) ∧
  decode 0x21012D00 1 = .ok (.wrf .tcp (.tcp .syn) 1) ∧
  decode 0x30000000 0 = .ok .clr ∧
  decode 0x31000000 0x31 = .ok (.push 0x31) ∧
  decode 0x32040000 9 = .ok (.ldb .out 9) ∧
  decode 0x33030000 0 = .ok (.getLen .pingPay)

/-- Every command, with every operand its encoding admits, is what the decoder reads from its own two words. -/
def Obligations.DecodeOfEncodeIsTheCommand : Prop :=
  ∀ i : Instr, i.wf = true → decode (encode i).1 (encode i).2 = .ok i

/-- R90, R83: what the decoder accepts is a command, and the two words are exactly that command's words: no bit of the
64 is ignored, so every pair of words is one command or illegal. -/
def Obligations.AcceptedWordsAreTheEncoding : Prop :=
  ∀ (cmd arg : Word) (i : Instr), decode cmd arg = .ok i → i.wf = true ∧ encode i = (cmd, arg)

/-- R86: an accepted word selects the row of its command's mnemonic (`w & mask == match`), and no other row. -/
def Obligations.AcceptedWordSelectsItsRowAlone : Prop :=
  ∀ (cmd arg : Word) (i : Instr), decode cmd arg = .ok i →
    ∃ row ∈ opcodeTable, row.mnemonic = i.mnemonic ∧ cmd &&& row.mask = row.bits ∧
      ∀ other ∈ opcodeTable, cmd &&& other.mask = other.bits → other = row

/-- R88: a command is illegal exactly when one of (a) to (h) holds, whatever the state; a step on an illegal command
answers IllegalCommand and changes nothing. -/
def Obligations.IllegalExactlyByRule : Prop :=
  ∀ cmd arg : Word,
    ((∃ e, decode cmd arg = .error e) ↔ illegalByRule cmd arg) ∧
    (illegalByRule cmd arg → ∀ (s : State) (rest : List HostEvent), s.host = .command cmd arg :: rest →
      step s = .next (faulted { s with host := rest } .illegalCommand))

/-! ### A step -/

/-- A step on a presented command that decodes is `exec` of that command, at the state in which the response before it
has been taken and the command is no longer presented; a pair of words that does not decode is answered IllegalCommand
with nothing else changed (R83, R258 (1)); with nothing presented the state is kept.  The last clause is the same for
`withFetchWord`. -/
def Obligations.StepRunsTheDecodedCommand : Prop :=
  (∀ (s : State) (cmd arg : Word) (rest : List HostEvent), s.host = .command cmd arg :: rest →
    (∀ i, decode cmd arg = .ok i → step s = exec i { s with host := rest, rsp := none }) ∧
    (∀ e, decode cmd arg = .error e →
      step s = .next { s with host := rest, rsp := some { status := .illegalCommand, result := 0 } })) ∧
  (∀ s : State, s.host = [] → step s = .next s) ∧
  (∀ (s : State) (nbits w : Nat) (i : Instr), decodeTableWord nbits w = some i →
    step (s.withFetchWord nbits w) = exec i { s with rsp := none })

/-- R263, R284: no step stops the machine, however long it runs and from whatever state. -/
def Obligations.NoRunEverStops : Prop :=
  ∀ (n : Nat) (s : State), ∃ t, Host.Core.run Sys2Proof.core n s = .next t

/-- R284, R250: every accepted pair of words, legal or not, gets exactly one response in its own step, with a status code
of at most 7; the host's other events and the parameters stay as they are. -/
def Obligations.EveryCommandIsAnsweredInItsStep : Prop :=
  ∀ (s : State) (cmd arg : Word) (rest : List HostEvent), s.host = .command cmd arg :: rest →
    ∃ t q, step s = .next t ∧ t.rsp = some q ∧ q.status.code.toNat ≤ 7 ∧ t.host = rest ∧ t.params = s.params

/-- R44, R280, R281: after hardware reset, from any state, every VALID bit is 0 and every buffer is empty; no register
holds a value; every command that names a context and is not its CONSTRUCT answers NotConstructed; `State.reset` is such a
state.  That reset is one host event between commands, that the host's later events stay, and that a response that stood
is gone are the model's choice (log entry 5). -/
def Obligations.HardResetLeavesNothing : Prop :=
  (∀ (s : State) (rest : List HostEvent), s.host = .reset :: rest →
    ∃ t, step s = .next t ∧ t.rsp = none ∧ t.host = rest ∧
      (∀ c, t.valid c = false) ∧ (∀ b, t.mem.buf b = []) ∧ (∀ c r, t.readField c r = none) ∧
      (∀ i c, i.wf = true → i.context = some c → ¬ i.constructs c → exec i t = .next (faulted t .notConstructed))) ∧
  (∀ c, State.reset.valid c = false) ∧ (∀ b, State.reset.mem.buf b = [])

/-! ### Faults (60_exceptions.md) -/

/-- R257: a command that faults changes no state at all, and its result is 0: the meaning of a command, and the step on
any pair of words, legal or not. -/
def Obligations.FaultChangesNothing : Prop :=
  (∀ (i : Instr) (s t : State) (q : Response), exec i s = .next t → t.rsp = some q → q.status ≠ .ok →
    t = faulted s q.status) ∧
  (∀ (s t : State) (cmd arg : Word) (rest : List HostEvent) (q : Response), s.host = .command cmd arg :: rest →
    step s = .next t → t.rsp = some q → q.status ≠ .ok → t = faulted { s with host := rest } q.status)

/-- R254: NotConstructed is the answer exactly to a legal command that names a context, is not CONSTRUCT, and finds VALID
0 there; nothing else is looked at before it. -/
def Obligations.NotConstructedExactlyWithoutValid : Prop :=
  ∀ (i : Instr) (s : State), i.wf = true →
    (exec i s = .next (faulted s .notConstructed) ↔
      ∃ c, i.context = some c ∧ ¬ i.constructs c ∧ s.valid c = false) ∧
    (∀ t q, exec i s = .next t → t.rsp = some q → q.status = .notConstructed → t = faulted s .notConstructed)

/-- The column 'raised by' of R250: each error is answered to the listed commands only, and no legal command answers
IllegalCommand. -/
def Obligations.EachErrorHasItsCommands : Prop :=
  ∀ (i : Instr) (s t : State) (q : Response), i.wf = true → exec i s = .next t → t.rsp = some q →
    (q.status = .constructionError → (∃ a, i = .constructIp a) ∨ ∃ a, i = .constructIcmp a) ∧
    (q.status = .addressFormatError → (∃ c, i = .setSrc c) ∨ ∃ c, i = .setDst c) ∧
    (q.status = .unsupportedFeatureError → i = .buildTcp) ∧
    (q.status = .fieldOverflowError →
      (∃ c r v, i = .wrf c r v) ∨ (∃ a, i = .setSport a) ∨ (∃ a, i = .setDport a) ∨ (∃ a, i = .push a) ∨
        (∃ a, i = .constructPing a) ∨ ∃ c len, i = buildOf c len) ∧
    (q.status = .bufferRangeError → (∃ a, i = .push a) ∨ (∃ b a, i = .ldb b a) ∨ ∃ c, i = .setPay c) ∧
    q.status ≠ .illegalCommand

/-- The model's choice (log entry 9): a term that is no command has no words, and `exec` answers it as the decoder's
refusal is answered. -/
def Obligations.TermWithoutEncodingIsIllegal : Prop :=
  ∀ (i : Instr) (s : State), i.wf = false → exec i s = .next (faulted s .illegalCommand)

/-! ### Whole-machine rules (10_state.md, 20_memory.md) -/

/-- R38: VALID[c] is set by a successful CONSTRUCT on `c` and by nothing else, and cleared by hardware reset only. -/
def Obligations.ValidSetByConstructClearedByReset : Prop :=
  ∀ (s t : State) (c : Ctx), step s = .next t →
    (s.valid c = false → t.valid c = true →
      ∃ cmd arg rest i, s.host = .command cmd arg :: rest ∧ decode cmd arg = .ok i ∧ i.constructs c ∧ t.isOk) ∧
    (s.valid c = true → t.valid c = false → ∃ rest, s.host = .reset :: rest)

/-- R27: within a constructed context, `IDENT` is written by a CONSTRUCT of that context (to 1) and by a successful BUILD
of it (to the successor of R155), and by nothing else. -/
def Obligations.IdentWrittenByConstructAndBuildOnly : Prop :=
  ∀ (i : Instr) (s t : State) (c : Ctx) (b b' : IpBank), exec i s = .next t →
    s.ipBank c = some b → t.ipBank c = some b' →
    (i.constructs c ∧ t.isOk → b'.ident = 1) ∧
    (i.builds c ∧ t.isOk → b'.ident.toNat = if b.ident.toNat = 0xFFFF then 1 else b.ident.toNat + 1) ∧
    (¬ ((i.constructs c ∨ i.builds c) ∧ t.isOk) → b'.ident = b.ident)

/-- R73: OUT keeps its content until the next successful BUILD of any context or a hardware reset. -/
def Obligations.OutKeptUntilBuildOrReset : Prop :=
  ∀ s t : State, step s = .next t → t.mem.out ≠ s.mem.out →
    (∃ rest, s.host = .reset :: rest) ∨
    (∃ cmd arg rest i c, s.host = .command cmd arg :: rest ∧ decode cmd arg = .ok i ∧ i.builds c ∧ t.isOk)

/-- R37: no command that names context `c` touches a register of another context; a command that names no context touches
no register at all. -/
def Obligations.ContextsAreIsolatedForWrites : Prop :=
  ∀ (i : Instr) (s t : State) (c : Ctx) (r : Reg), exec i s = .next t → i.context ≠ some c →
    t.readField c r = s.readField c r

/-- R37 read as secrecy: what a command answers, what it leaves in its context and what a BUILD leaves in OUT do not
depend on any other context, on another payload, or on what OUT held. -/
def Obligations.ContextLearnsNothingOfOthers : Prop :=
  ∀ (i : Instr) (c : Ctx) (s s' t t' : State), i.context = some c → sameView c s s' →
    exec i s = .next t → exec i s' = .next t' →
    t.rsp = t'.rsp ∧ sameView c t t' ∧ (i.builds c → t.isOk → t.mem.out = t'.mem.out)

/-- R26: every register reads as a number below 2 to the power of its width, in every state. -/
def Obligations.EveryRegisterFitsItsWidth : Prop :=
  ∀ (s : State) (c : Ctx) (r : Reg) (v : Word), s.readField c r = some v → v.toNat < 2 ^ r.width

/-! ### The invariant -/

/-- The reset state meets the invariant. -/
def Obligations.ResetMeetsInvariant : Prop := State.Inv State.reset

/-- Every step keeps the invariant: parameters, buffer forms and capacities (R40), even PING_PAY (R232), OUT empty or at
least a header (R153), `IDENT` never 0 (R27), `PROTO` and Ping's `TYPE` fixed (R37, R34). -/
def Obligations.StepKeepsInvariant : Prop :=
  ∀ s t : State, s.Inv → step s = .next t → t.Inv

/-! ### The checksum engine (41_checksum.md) -/

/-- R130, R131 (c), R133: CSUM answers the complement of the folded sum of the 16-bit big-endian words of SCRATCH, the
fold in closed form, and changes nothing. -/
def Obligations.CsumAnswersComplementOfResidue : Prop :=
  ∀ s : State, exec .csum s =
    .next { s with rsp := some { status := .ok, result := BitVec.ofNat 32 (0xFFFF - residue (indexedSum s.mem.scratch)) } }

/-- R132: the two fixed points, and the self-check: a message whose checksum field, at an even position, holds the
checksum of the message with the field zero has checksum 0. -/
def Obligations.ChecksumInPlaceVerifies : Prop :=
  ocsum [] = 0xFFFF ∧
  ocsum [0x00, 0x01, 0xF2, 0x03, 0xF4, 0xF5, 0xF6, 0xF7] = 0x220D ∧
  ∀ a b : List Byte, a.length % 2 = 0 →
    ∀ c : BitVec 16, c = ocsum (a ++ [0, 0] ++ b) →
      ocsum (a ++ [natByte (c.toNat / 256), natByte c.toNat] ++ b) = 0

/-- R131 (b): a first piece of even length and the rest can be summed separately, their folded sums added and folded. -/
def Obligations.FoldedSumsOfPiecesAdd : Prop :=
  ∀ a b : List Byte, a.length % 2 = 0 →
    let t := (0xFFFF - (ocsum a).toNat) + (0xFFFF - (ocsum b).toNat)
    0xFFFF - (ocsum (a ++ b)).toNat = if 0x10000 ≤ t then t - 0xFFFF else t

/-! ### Construction -/

/-- R150, R151: an operand of 0 to 9 constructs context IP, every register at its construction value, whatever the
context was; any other operand answers ConstructionError and constructs nothing. -/
def Obligations.ConstructIpWritesTheBank : Prop :=
  ∀ (s : State) (a : Word),
    (a.toNat ≤ 9 →
      exec (.constructIp a) s = .next
        { s with
          ip := some { version := 4, ihl := 5, dscp := 0, ecn := 0, totlen := 0, ident := 1, flags := 0, fragoff := 0,
                       ttl := s.params.ttlInit, proto := BitVec.ofNat 8 a.toNat, hcsum := 0, src := 0, dst := 0 }
          rsp := some { status := .ok, result := 0 } }) ∧
    (9 < a.toNat → exec (.constructIp a) s = .next (faulted s .constructionError))

/-- R180: every operand constructs context TCP: the embedded bank with protocol 6, the TCP bank with the operand in `SEQ`
and 5 in `HLW`, an empty payload. -/
def Obligations.ConstructTcpWritesBothBanks : Prop :=
  ∀ (s : State) (a : Word),
    exec (.constructTcp a) s = .next
      { s with
        tcp := some
          { ip := { version := 4, ihl := 5, dscp := 0, ecn := 0, totlen := 0, ident := 1, flags := 0, fragoff := 0,
                    ttl := s.params.ttlInit, proto := 6, hcsum := 0, src := 0, dst := 0 }
            tcp := { sport := 0, dport := 0, seq := a, acknum := 0, hlw := 5, rsvd := 0, ns := 0, cwr := 0, ece := 0,
                     urg := 0, ack := 0, psh := 0, rst := 0, syn := 0, fin := 0, window := 0, tcsum := 0, urgptr := 0,
                     options := 0 } }
        mem := { s.mem with tcpPay := [] }
        rsp := some { status := .ok, result := 0 } }

/-- R210: an operand among the ten recognized types constructs context ICMP with protocol 1, that type, the rest 0 and an
empty payload; any other operand answers ConstructionError and constructs nothing. -/
def Obligations.ConstructIcmpWritesBothBanks : Prop :=
  ∀ (s : State) (a : Word),
    (a.toNat ∈ [0, 3, 5, 8, 9, 10, 11, 12, 13, 14] →
      exec (.constructIcmp a) s = .next
        { s with
          icmp := some
            { ip := { version := 4, ihl := 5, dscp := 0, ecn := 0, totlen := 0, ident := 1, flags := 0, fragoff := 0,
                      ttl := s.params.ttlInit, proto := 1, hcsum := 0, src := 0, dst := 0 }
              icmp := { icmpType := BitVec.ofNat 8 a.toNat, code := 0, icsum := 0, option := 0 } }
          mem := { s.mem with icmpPay := [] }
          rsp := some { status := .ok, result := 0 } }) ∧
    (a.toNat ∉ [0, 3, 5, 8, 9, 10, 11, 12, 13, 14] →
      exec (.constructIcmp a) s = .next (faulted s .constructionError))

/-- R230: an identifier of 16 bits constructs context PING: protocol 1, type 8, code 0, the identifier in the high half
of `OPTION` and sequence 0 in the low half, the default payload; a wider operand answers FieldOverflowError. -/
def Obligations.ConstructPingWritesBothBanks : Prop :=
  ∀ (s : State) (a : Word),
    (a.toNat ≤ 0xFFFF →
      exec (.constructPing a) s = .next
        { s with
          ping := some
            { ip := { version := 4, ihl := 5, dscp := 0, ecn := 0, totlen := 0, ident := 1, flags := 0, fragoff := 0,
                      ttl := s.params.ttlInit, proto := 1, hcsum := 0, src := 0, dst := 0 }
              icmp := { icmpType := 8, code := 0, icsum := 0, option := BitVec.ofNat 32 (a.toNat * 2 ^ 16) } }
          mem := { s.mem with pingPay := s.params.pingDefaultPayload }
          rsp := some { status := .ok, result := 0 } }) ∧
    (0xFFFF < a.toNat → exec (.constructPing a) s = .next (faulted s .fieldOverflowError))

/-! ### Builds -/

/-- R156 with R153, R154, R155, R161: what BUILD.IP emits, byte by byte, what it leaves in the bank, and when it is
refused. -/
def Obligations.BuildIpEmitsTheHeader : Prop :=
  ∀ (s : State) (len : Word) (b : IpBank), s.ip = some b →
    (len.toNat ≤ 0xFFFF → b.ihl.toNat * 4 + len.toNat ≤ 0xFFFF →
      exec (.buildIp len) s = .next
        { s with
          ip := some (builtIp b len.toNat)
          mem := { s.mem with out := wireIp (emittedIp b len.toNat) }
          rsp := some { status := .ok, result := 20 } }) ∧
    (0xFFFF < len.toNat ∨ 0xFFFF < b.ihl.toNat * 4 + len.toNat →
      exec (.buildIp len) s = .next (faulted s .fieldOverflowError))

/-- R186 with R181 to R185 and R161: what BUILD.TCP emits, byte by byte, what it leaves in both banks, and the order of
its refusals: options first, then the lengths. -/
def Obligations.BuildTcpEmitsTheSegment : Prop :=
  ∀ (s : State) (x : TcpContext), s.tcp = some x →
    let p := s.mem.tcpPay
    let fitsAll := x.tcp.hlw.toNat * 4 + p.length ≤ 0xFFFF ∧ 20 + p.length ≤ 0xFFFF ∧
      x.ip.ihl.toNat * 4 + (20 + p.length) ≤ 0xFFFF
    (x.tcp.options = 0 → fitsAll →
      exec .buildTcp s = .next
        { s with
          tcp := some { ip := builtIp x.ip (20 + p.length), tcp := builtTcp x p }
          mem := { s.mem with out := wireIp (emittedIp x.ip (20 + p.length)) ++ wireTcp (builtTcp x p) ++ p }
          rsp := some { status := .ok, result := BitVec.ofNat 32 (40 + p.length) } }) ∧
    (x.tcp.options ≠ 0 → exec .buildTcp s = .next (faulted s .unsupportedFeatureError)) ∧
    (x.tcp.options = 0 → ¬ fitsAll → exec .buildTcp s = .next (faulted s .fieldOverflowError))

/-- R214 with R212, R213 and R161: what BUILD.ICMP emits, byte by byte, what it leaves in both banks (`TYPE`, `CODE` and
`OPTION` unchanged), and when it is refused. -/
def Obligations.BuildIcmpEmitsTheMessage : Prop :=
  ∀ (s : State) (x : IcmpContext), s.icmp = some x →
    let p := s.mem.icmpPay
    let fitsAll := 8 + p.length ≤ 0xFFFF ∧ x.ip.ihl.toNat * 4 + (8 + p.length) ≤ 0xFFFF
    (fitsAll →
      exec .buildIcmp s = .next
        { s with
          icmp := some { ip := builtIp x.ip (8 + p.length), icmp := builtIcmp x.icmp p }
          mem := { s.mem with out := wireIp (emittedIp x.ip (8 + p.length)) ++ wireIcmp (builtIcmp x.icmp p) ++ p }
          rsp := some { status := .ok, result := BitVec.ofNat 32 (28 + p.length) } }) ∧
    (¬ fitsAll → exec .buildIcmp s = .next (faulted s .fieldOverflowError))

/-- R233 with R212, R213, R161 and R234: BUILD.PING increments the low half of `OPTION` modulo 2^16, the identifier
untouched, and emits the message with the new number; refused, it increments nothing. -/
def Obligations.BuildPingAdvancesAndEmits : Prop :=
  ∀ (s : State) (x : IcmpContext), s.ping = some x →
    let p := s.mem.pingPay
    let o := x.icmp.option.toNat
    let m := { x.icmp with option := BitVec.ofNat 32 (o / 2 ^ 16 * 2 ^ 16 + (o % 2 ^ 16 + 1) % 2 ^ 16) }
    let fitsAll := 8 + p.length ≤ 0xFFFF ∧ x.ip.ihl.toNat * 4 + (8 + p.length) ≤ 0xFFFF
    (fitsAll →
      exec .buildPing s = .next
        { s with
          ping := some { ip := builtIp x.ip (8 + p.length), icmp := builtIcmp m p }
          mem := { s.mem with out := wireIp (emittedIp x.ip (8 + p.length)) ++ wireIcmp (builtIcmp m p) ++ p }
          rsp := some { status := .ok, result := BitVec.ofNat 32 (28 + p.length) } }) ∧
    (¬ fitsAll → exec .buildPing s = .next (faulted s .fieldOverflowError))

/-! ### Setters -/

/-- R160 as a grammar: a text is accepted exactly when it is four groups separated by three bytes 0x2E, and the number is
that of R157; the shortest accepted text has 7 bytes and the longest 15. -/
def Obligations.ParseQuadFollowsTheGrammar : Prop :=
  (∀ (l : List Byte) (a : Word), parseQuad l = some a ↔
    ∃ g1 g2 g3 g4 o1 o2 o3 o4, isGroup g1 o1 ∧ isGroup g2 o2 ∧ isGroup g3 o3 ∧ isGroup g4 o4 ∧
      l = g1 ++ [0x2E] ++ g2 ++ [0x2E] ++ g3 ++ [0x2E] ++ g4 ∧
      a.toNat = o1 * 2 ^ 24 + o2 * 2 ^ 16 + o3 * 2 ^ 8 + o4) ∧
  (∀ (l : List Byte) (a : Word), parseQuad l = some a → 7 ≤ l.length ∧ l.length ≤ 15) ∧
  (∃ l a, parseQuad l = some a ∧ l.length = 7) ∧ (∃ l a, parseQuad l = some a ∧ l.length = 15)

/-- R158, R159: on a constructed context, SETSRC and SETDST parse SCRATCH, write the address into the context's own IP
bank (embedded for a transport context) and answer it; a malformed text answers AddressFormatError. -/
def Obligations.AddressSettersWriteTheParsedAddress : Prop :=
  ∀ (s : State) (c : Ctx), s.valid c = true →
    (∀ a, parseQuad s.mem.scratch = some a →
      (∃ t, exec (.setSrc c) s = .next t ∧ t.rsp = some { status := .ok, result := a } ∧
        t.readField c (.ip .src) = some a ∧ sameRegs s t (fun c' r => c' = c ∧ r = .ip .src) ∧
        t.mem = s.mem ∧ sameInputs s t) ∧
      (∃ t, exec (.setDst c) s = .next t ∧ t.rsp = some { status := .ok, result := a } ∧
        t.readField c (.ip .dst) = some a ∧ sameRegs s t (fun c' r => c' = c ∧ r = .ip .dst) ∧
        t.mem = s.mem ∧ sameInputs s t)) ∧
    (parseQuad s.mem.scratch = none →
      exec (.setSrc c) s = .next (faulted s .addressFormatError) ∧
      exec (.setDst c) s = .next (faulted s .addressFormatError))

/-- R188, R189: on a constructed context TCP, a port of 16 bits is written to `SPORT` or `DPORT`, alone; a wider operand
answers FieldOverflowError. -/
def Obligations.PortSettersWriteThePort : Prop :=
  ∀ (s : State) (x : TcpContext) (a : Word), s.tcp = some x →
    (a.toNat ≤ 0xFFFF →
      exec (.setSport a) s = .next
        { s with
          tcp := some { x with tcp := { x.tcp with sport := BitVec.ofNat 16 a.toNat } }
          rsp := some { status := .ok, result := 0 } } ∧
      exec (.setDport a) s = .next
        { s with
          tcp := some { x with tcp := { x.tcp with dport := BitVec.ofNat 16 a.toNat } }
          rsp := some { status := .ok, result := 0 } }) ∧
    (0xFFFF < a.toNat →
      exec (.setSport a) s = .next (faulted s .fieldOverflowError) ∧
      exec (.setDport a) s = .next (faulted s .fieldOverflowError))

/-- R120: on a constructed transport context SETPAY copies SCRATCH into that context's payload buffer, for PING with one
space appended to an odd length, and answers the new length; a copy longer than PAY_CAP answers BufferRangeError. -/
def Obligations.SetPayCopiesScratch : Prop :=
  ∀ (s : State) (c : Ctx), c ≠ .ip → s.valid c = true →
    let l := if c = .ping ∧ s.mem.scratch.length % 2 = 1 then s.mem.scratch ++ [0x20] else s.mem.scratch
    (l.length ≤ s.params.payCap →
      exec (.setPay c) s = .next
        { s with
          mem :=
            { s.mem with
              tcpPay := if c = .tcp then l else s.mem.tcpPay
              icmpPay := if c = .icmp then l else s.mem.icmpPay
              pingPay := if c = .ping then l else s.mem.pingPay }
          rsp := some { status := .ok, result := lengthWord l.length } }) ∧
    (s.params.payCap < l.length → exec (.setPay c) s = .next (faulted s .bufferRangeError))

/-! ### Field and buffer access -/

/-- R112: RDF of a register that exists in a constructed context answers its value, zero-extended, and changes nothing;
such a register always has a value. -/
def Obligations.RdfAnswersTheRegister : Prop :=
  ∀ (s : State) (c : Ctx) (r : Reg), r.existsIn c = true → s.valid c = true →
    ∃ v, s.readField c r = some v ∧
      exec (.rdf c r) s = .next { s with rsp := some { status := .ok, result := v } }

/-- R113: WRF of a writable register of a constructed context writes a value below 2^width, that register alone, and RDF
then answers it (R114); a larger value answers FieldOverflowError. -/
def Obligations.WrfWritesThenRdfReads : Prop :=
  ∀ (s : State) (c : Ctx) (r : Reg) (v : Word), r.writableIn c = true → s.valid c = true →
    (v.toNat < 2 ^ r.width →
      ∃ t, exec (.wrf c r v) s = .next t ∧ t.rsp = some { status := .ok, result := 0 } ∧
        t.readField c r = some v ∧ sameRegs s t (fun c' r' => c' = c ∧ r' = r) ∧ t.mem = s.mem ∧ sameInputs s t ∧
        exec (.rdf c r) t = .next { t with rsp := some { status := .ok, result := v } }) ∧
    (2 ^ r.width ≤ v.toNat → exec (.wrf c r v) s = .next (faulted s .fieldOverflowError))

/-- R114: after a write of a value in range, a successful next BUILD of the context places exactly that value at the
register's wire position (`OPTIONS` has none). -/
def Obligations.WrittenFieldReachesTheWire : Prop :=
  ∀ (s t u : State) (c : Ctx) (r : Reg) (v len : Word) (first : Nat),
    r.writableIn c = true → v.toNat < 2 ^ r.width → r.wireBit = some first →
    exec (.wrf c r v) s = .next t → t.isOk → exec (buildOf c len) t = .next u → u.isOk →
    bitsAt u.mem.out first r.width = v.toNat

/-- R116, R117: CLR empties SCRATCH; PUSH appends one byte while SCRATCH is below its capacity and answers the new
length; an operand wider than a byte is refused first, then a full SCRATCH. -/
def Obligations.ClrAndPushChangeScratch : Prop :=
  ∀ (s : State) (a : Word),
    exec .clr s = .next
      { s with mem := { s.mem with scratch := [] }, rsp := some { status := .ok, result := 0 } } ∧
    (a.toNat ≤ 0xFF → s.mem.scratch.length < s.params.scratchCap →
      exec (.push a) s = .next
        { s with
          mem := { s.mem with scratch := s.mem.scratch ++ [BitVec.ofNat 8 a.toNat] }
          rsp := some { status := .ok, result := lengthWord (s.mem.scratch.length + 1) } }) ∧
    (0xFF < a.toNat → exec (.push a) s = .next (faulted s .fieldOverflowError)) ∧
    (a.toNat ≤ 0xFF → s.mem.scratch.length = s.params.scratchCap →
      exec (.push a) s = .next (faulted s .bufferRangeError))

/-- R118, R119: LDB answers the byte at an index below the buffer's length, BufferRangeError from there on; GETLEN
answers the length.  Neither looks at VALID or changes anything. -/
def Obligations.LdbAndGetLenReadBuffers : Prop :=
  ∀ (s : State) (b : Buf) (a : Word),
    (∀ h : a.toNat < (s.mem.buf b).length,
      exec (.ldb b a) s = .next
        { s with rsp := some { status := .ok, result := BitVec.ofNat 32 ((s.mem.buf b)[a.toNat]'h).toNat } }) ∧
    ((s.mem.buf b).length ≤ a.toNat → exec (.ldb b a) s = .next (faulted s .bufferRangeError)) ∧
    exec (.getLen b) s = .next
      { s with rsp := some { status := .ok, result := lengthWord (s.mem.buf b).length } }

/-- R96: a buffer length below 2^32 is answered as that number.  Nothing is claimed of a longer one (log entry 7), so
this holds for every value of the free value. -/
def Obligations.LengthsBelowWordAreExact : Prop :=
  (∀ n : Nat, n < 2 ^ 32 → (lengthWord n).toNat = n) ∧
  ∀ (s t : State) (b : Buf), s.Inv → s.params.scratchCap < 2 ^ 32 - 1 → s.params.outCap < 2 ^ 32 →
    exec (.getLen b) s = .next t →
    ∃ q, t.rsp = some q ∧ q.status = .ok ∧ q.result.toNat = (s.mem.buf b).length

/-! ### Frames -/

/-- R67: RDF, LDB, GETLEN and CSUM change no state, whatever they answer: every register, every byte, the parameters and
the host's events are as before. -/
def Obligations.FrameOfReads : Prop :=
  ∀ (s t : State) (c : Ctx) (r : Reg) (b : Buf) (a : Word),
    (exec .csum s = .next t ∨ exec (.rdf c r) s = .next t ∨ exec (.ldb b a) s = .next t ∨
      exec (.getLen b) s = .next t) →
    t = { s with rsp := t.rsp }

/-- SETSRC, SETDST, SETSPORT, SETDPORT and WRF store no byte of any buffer and change no register but the one they name:
`SRC`, `DST`, `SPORT`, `DPORT`, or the register of WRF (R113, R158, R159, R188, R189). -/
def Obligations.FrameOfFieldWriters : Prop :=
  ∀ s t : State,
    (∀ c, exec (.setSrc c) s = .next t → sameRegs s t (fun c' r => c' = c ∧ r = .ip .src) ∧
      sameBytes s t (fun _ _ => False) ∧ sameInputs s t) ∧
    (∀ c, exec (.setDst c) s = .next t → sameRegs s t (fun c' r => c' = c ∧ r = .ip .dst) ∧
      sameBytes s t (fun _ _ => False) ∧ sameInputs s t) ∧
    (∀ a, exec (.setSport a) s = .next t → sameRegs s t (fun c' r => c' = .tcp ∧ r = .tcp .sport) ∧
      sameBytes s t (fun _ _ => False) ∧ sameInputs s t) ∧
    (∀ a, exec (.setDport a) s = .next t → sameRegs s t (fun c' r => c' = .tcp ∧ r = .tcp .dport) ∧
      sameBytes s t (fun _ _ => False) ∧ sameInputs s t) ∧
    (∀ c r v, exec (.wrf c r v) s = .next t → sameRegs s t (fun c' r' => c' = c ∧ r' = r) ∧
      sameBytes s t (fun _ _ => False) ∧ sameInputs s t)

/-- CLR, PUSH and SETPAY change no register; CLR changes SCRATCH alone, PUSH stores the one byte at index
`len(BUF[SCRATCH])`, SETPAY the payload buffer of its context alone (R116, R117, R120). -/
def Obligations.FrameOfBufferWriters : Prop :=
  ∀ s t : State,
    (exec .clr s = .next t → sameRegs s t (fun _ _ => False) ∧
      sameBytes s t (fun b _ => b = .scratch) ∧ sameInputs s t) ∧
    (∀ a, exec (.push a) s = .next t → sameRegs s t (fun _ _ => False) ∧
      sameBytes s t (fun b i => b = .scratch ∧ i = s.mem.scratch.length) ∧ sameInputs s t) ∧
    (∀ c, exec (.setPay c) s = .next t → sameRegs s t (fun _ _ => False) ∧
      sameBytes s t (fun b _ => payBuf c = some b) ∧ sameInputs s t)

/-- A CONSTRUCT changes no register of another context and no buffer but its own payload buffer; OUT, SCRATCH and the
other payloads survive (R150, R180, R210, R230, R283). -/
def Obligations.FrameOfConstructs : Prop :=
  ∀ (s t : State) (a : Word),
    (exec (.constructIp a) s = .next t → sameRegs s t (fun c _ => c = .ip) ∧
      sameBytes s t (fun _ _ => False) ∧ sameInputs s t) ∧
    (exec (.constructTcp a) s = .next t → sameRegs s t (fun c _ => c = .tcp) ∧
      sameBytes s t (fun b _ => b = .tcpPay) ∧ sameInputs s t) ∧
    (exec (.constructIcmp a) s = .next t → sameRegs s t (fun c _ => c = .icmp) ∧
      sameBytes s t (fun b _ => b = .icmpPay) ∧ sameInputs s t) ∧
    (exec (.constructPing a) s = .next t → sameRegs s t (fun c _ => c = .ping) ∧
      sameBytes s t (fun b _ => b = .pingPay) ∧ sameInputs s t)

/-- A BUILD changes, of all registers, only `TOTLEN`, `HCSUM` and `IDENT` of its own context, and `TCSUM` (TCP), `ICSUM`
(ICMP, PING), `OPTION` (PING) of it; of all bytes, only OUT (R156, R186, R214, R233). -/
def Obligations.FrameOfBuilds : Prop :=
  ∀ s t : State,
    (∀ a, exec (.buildIp a) s = .next t → sameRegs s t (fun c r => c = .ip ∧ ipBuildReg r) ∧
      sameBytes s t (fun b _ => b = .out) ∧ sameInputs s t) ∧
    (exec .buildTcp s = .next t → sameRegs s t (fun c r => c = .tcp ∧ (ipBuildReg r ∨ r = .tcp .tcsum)) ∧
      sameBytes s t (fun b _ => b = .out) ∧ sameInputs s t) ∧
    (exec .buildIcmp s = .next t → sameRegs s t (fun c r => c = .icmp ∧ (ipBuildReg r ∨ r = .icmp .icsum)) ∧
      sameBytes s t (fun b _ => b = .out) ∧ sameInputs s t) ∧
    (exec .buildPing s = .next t →
      sameRegs s t (fun c r => c = .ping ∧ (ipBuildReg r ∨ r = .icmp .icsum ∨ r = .icmp .option)) ∧
      sameBytes s t (fun b _ => b = .out) ∧ sameInputs s t)

/-! ### Packets -/

/-- X3, R132: after any successful BUILD of any context the 20 header bytes of OUT, checksum field included, have
checksum 0. -/
def Obligations.EmittedIpHeaderVerifies : Prop :=
  ∀ (s t : State) (c : Ctx) (len : Word), exec (buildOf c len) s = .next t → t.isOk →
    ocsum (t.mem.out.take 20) = 0

/-- R214, R132: after a successful BUILD.ICMP or BUILD.PING the message in OUT, bytes 20 to the end, has checksum 0. -/
def Obligations.EmittedIcmpMessageVerifies : Prop :=
  ∀ (s t : State) (c : Ctx) (len : Word), c = .icmp ∨ c = .ping → exec (buildOf c len) s = .next t → t.isOk →
    ocsum (t.mem.out.drop 20) = 0

/-- R135, R186: after a successful BUILD.TCP with `HLW` = 5, the pseudo-header of the addresses and protocol, with the
number of TCP bytes in OUT as its length, followed by OUT from byte 20 on, has checksum 0. -/
def Obligations.EmittedTcpSegmentVerifies : Prop :=
  ∀ (s t : State) (x : TcpContext), s.tcp = some x → x.tcp.hlw = 5 → exec .buildTcp s = .next t → t.isOk →
    ocsum (wirePseudo x.ip.src x.ip.dst x.ip.proto (t.mem.out.length - 20) ++ t.mem.out.drop 20) = 0

/-- R187: with `IHL` = 5, after a successful BUILD of a transport context `TOTLEN` is the length of OUT, and bytes 2 and 3
of OUT are `TOTLEN`. -/
def Obligations.TotalLengthIsOutLength : Prop :=
  ∀ (s t : State) (c : Ctx) (len : Word) (b : IpBank), c ≠ .ip → s.ipBank c = some b → b.ihl = 5 →
    exec (buildOf c len) s = .next t → t.isOk →
    ∃ b', t.ipBank c = some b' ∧ b'.totlen.toNat = t.mem.out.length ∧
      bitsAt t.mem.out 16 16 = b'.totlen.toNat

/-- R190, R214: after a successful BUILD.TCP a second one with no command between also succeeds, leaves the same `TCSUM`
and an OUT of the same length that differs in bytes 4, 5, 10 and 11 only; the same for BUILD.ICMP and `ICSUM`. -/
def Obligations.SecondBuildDiffersInIdAndChecksumOnly : Prop :=
  ∀ s t : State, t.isOk →
    (exec .buildTcp s = .next t →
      ∃ u, exec .buildTcp t = .next u ∧ u.isOk ∧ u.mem.out.length = t.mem.out.length ∧
        u.readField .tcp (.tcp .tcsum) = t.readField .tcp (.tcp .tcsum) ∧
        ∀ i, i ∉ [4, 5, 10, 11] → u.mem.out[i]? = t.mem.out[i]?) ∧
    (exec .buildIcmp s = .next t →
      ∃ u, exec .buildIcmp t = .next u ∧ u.isOk ∧ u.mem.out.length = t.mem.out.length ∧
        u.readField .icmp (.icmp .icsum) = t.readField .icmp (.icmp .icsum) ∧
        ∀ i, i ∉ [4, 5, 10, 11] → u.mem.out[i]? = t.mem.out[i]?)

/-! ### Counters over runs -/

/-- R27, R155, X5: `n` BUILD.IP commands run by the machine from a state whose `IDENT` is 1 leave `IDENT` =
`n mod 0xFFFF + 1`, so 1 again after 0xFFFF of them and never 0; the last one emitted the value before. -/
def Obligations.IdentCyclesOverBuilds : Prop :=
  ∀ (n : Nat) (s : State) (b : IpBank) (len : Word), s.ip = some b → b.ident = 1 →
    len.toNat ≤ 0xFFFF → b.ihl.toNat * 4 + len.toNat ≤ 0xFFFF →
    ∃ t b', Host.Core.run Sys2Proof.core n { s with host := List.replicate n (.command 0x11000000 len) } = .next t ∧
      t.ip = some b' ∧ b'.ident.toNat = n % 0xFFFF + 1 ∧
      (0 < n → bitsAt t.mem.out 32 16 = (n - 1) % 0xFFFF + 1)

/-- R234: `n` BUILD.PING commands run by the machine advance the sequence number by `n` modulo 2^16 and leave the
identifier as it is; the last one emitted the number now in `OPTION`. -/
def Obligations.PingSequenceWrapsOverBuilds : Prop :=
  ∀ (n : Nat) (s : State) (x : IcmpContext), s.ping = some x →
    8 + s.mem.pingPay.length ≤ 0xFFFF → x.ip.ihl.toNat * 4 + (8 + s.mem.pingPay.length) ≤ 0xFFFF →
    ∃ t x', Host.Core.run Sys2Proof.core n { s with host := List.replicate n (.command 0x11030000 0) } = .next t ∧
      t.ping = some x' ∧
      x'.icmp.option.toNat / 2 ^ 16 = x.icmp.option.toNat / 2 ^ 16 ∧
      x'.icmp.option.toNat % 2 ^ 16 = (x.icmp.option.toNat + n) % 2 ^ 16 ∧
      (0 < n → bitsAt t.mem.out 192 32 = x'.icmp.option.toNat)

/-- R235: after CONSTRUCT.PING and any commands among which there is no `WRF PING, CODE`, no other CONSTRUCT.PING and no
successful BUILD.PING, the first successful BUILD.PING emits type 8, code 0, the identifier, sequence 1 and the payload. -/
def Obligations.FirstPingCarriesSequenceOne : Prop :=
  ∀ (s t u v : State) (a : Word) (between : List Instr), a.toNat ≤ 0xFFFF →
    exec (.constructPing a) s = .next t → runCommands between t = .next u →
    (∀ i ∈ between, (∀ w, i ≠ .wrf .ping (.icmp .code) w) ∧ ¬ i.constructs .ping) →
    (∀ before after w, between = before ++ .buildPing :: after →
      runCommands (before ++ [.buildPing]) t = .next w → ¬ w.isOk) →
    exec .buildPing u = .next v → v.isOk →
    bitsAt v.mem.out 160 8 = 8 ∧ bitsAt v.mem.out 168 8 = 0 ∧ bitsAt v.mem.out 192 16 = a.toNat ∧
      bitsAt v.mem.out 208 16 = 1 ∧ v.mem.out.drop 28 = u.mem.pingPay

/-! ### Pseudo-instructions -/

/-- R95: where SCRATCH_CAP has room, LOADS leaves exactly the ASCII codes of its text in SCRATCH, and LOADPAY its bytes
in the payload buffer of a constructed transport context, padded for PING (R120); every register is as before.  That the
operands of LOADPAY are 8-bit bytes is the model's choice (log entry 15). -/
def Obligations.PseudoInstructionsLoadTheirBytes : Prop :=
  (∀ (s : State) (text : List Char), (∀ ch ∈ text, ch.toNat < 128) → text.length ≤ s.params.scratchCap →
    ∃ t, runExpansion (Pseudo.loadS text).expand s = .next t ∧ t.isOk ∧
      t.mem.scratch = text.map (fun ch => BitVec.ofNat 8 ch.toNat) ∧ sameRegs s t (fun _ _ => False)) ∧
  (∀ (s : State) (c : Ctx) (b : Buf) (bytes : List Byte), s.valid c = true → payBuf c = some b →
    bytes.length ≤ s.params.scratchCap → (padPayload c bytes).length ≤ s.params.payCap →
    ∃ t, runExpansion (Pseudo.loadPay c bytes).expand s = .next t ∧ t.isOk ∧
      t.mem.scratch = bytes ∧ t.mem.buf b = padPayload c bytes ∧ sameRegs s t (fun _ _ => False))

/-! ### OUT over every step -/

/-- The reset state holds no header in OUT that could fail to verify (R44). -/
def Obligations.ResetOutVerifies : Prop := State.reset.outVerifies

/-- R132, R161, R73: in every state in which OUT is empty or begins with a header of checksum 0, every step, whatever the
host does, leaves OUT empty or beginning with a header of checksum 0. -/
def Obligations.StepKeepsOutVerifying : Prop :=
  ∀ s t : State, s.outVerifies → step s = .next t → t.outVerifies
end

