-- ==== Sys2Proof/Laws/Checksum.lean ====
section
/-! SUPPORT. The checksum's arithmetic: the fold in closed form (R131 (a), (c)) and the sum of an even first piece
(R131 (b)). -/

namespace Sys2Proof.Machine

theorem residue_le (n : Nat) : residue n ≤ 0xFFFF := by
  unfold residue; split
  · omega
  · split <;> omega

theorem residue_of_lt (n : Nat) (h : n < 0x10000) : residue n = n := by
  unfold residue; split
  · omega
  · split <;> omega

/-- One pass of the fold keeps the closed form. -/
theorem residue_pass (n : Nat) (h : 0x10000 ≤ n) : residue (n % 0x10000 + n / 0x10000) = residue n := by
  have h0 : n % 0x10000 + n / 0x10000 ≠ 0 := by omega
  have h1 : n ≠ 0 := by omega
  have h2 : (n % 0x10000 + n / 0x10000) % 0xFFFF = n % 0xFFFF := by omega
  simp only [residue, h0, h1, if_false, h2]

/-- The fold of R130 in closed form: as many passes as the sum itself are enough. -/
theorem foldCarry_eq_residue (fuel n : Nat) (h : n ≤ fuel) : foldCarry fuel n = residue n := by
  induction fuel generalizing n with
  | zero =>
    obtain rfl : n = 0 := by omega
    rfl
  | succ k ih =>
    unfold foldCarry
    split
    · rw [residue_of_lt]; assumption
    · rw [ih _ (by omega), residue_pass]; omega

theorem ocsum_eq_residue (l : List Byte) : ocsum l = BitVec.ofNat 16 (0xFFFF - residue (wordSum l)) := by
  rw [ocsum, foldCarry_eq_residue _ _ (Nat.le_refl _)]

theorem ocsum_toNat (l : List Byte) : (ocsum l).toNat = 0xFFFF - residue (wordSum l) := by
  rw [ocsum_eq_residue, BitVec.toNat_ofNat]
  omega

theorem wordSum_append (a b : List Byte) (h : a.length % 2 = 0) : wordSum (a ++ b) = wordSum a + wordSum b := by
  induction a using wordSum.induct with
  | case1 => simp [wordSum]
  | case2 hi => simp at h
  | case3 hi lo rest ih =>
    have : rest.length % 2 = 0 := by simp at h; omega
    simp [wordSum, ih this]; omega

end Sys2Proof.Machine
end

