-- ==== Sys2Proof/Laws/State.lean ====
section
/-! SUPPORT. What each update of the state leaves in each field: true by `rfl` (a case on the context at most), so that no
proof unfolds a record update. -/

namespace Sys2Proof.Machine

section SetBuf
variable (s : State) (b : Buf) (l : List Byte)
@[simp] theorem setBuf_ip : (s.setBuf b l).ip = s.ip := rfl
@[simp] theorem setBuf_tcp : (s.setBuf b l).tcp = s.tcp := rfl
@[simp] theorem setBuf_icmp : (s.setBuf b l).icmp = s.icmp := rfl
@[simp] theorem setBuf_ping : (s.setBuf b l).ping = s.ping := rfl
@[simp] theorem setBuf_mem : (s.setBuf b l).mem = s.mem.setBuf b l := rfl
@[simp] theorem setBuf_params : (s.setBuf b l).params = s.params := rfl
@[simp] theorem setBuf_host : (s.setBuf b l).host = s.host := rfl
@[simp] theorem setBuf_rsp : (s.setBuf b l).rsp = s.rsp := rfl
end SetBuf

section MemorySetBuf
variable (m : Memory) (l : List Byte)
@[simp] theorem setBuf_scratch : m.setBuf .scratch l = { m with scratch := l } := rfl
@[simp] theorem setBuf_tcpPay : m.setBuf .tcpPay l = { m with tcpPay := l } := rfl
@[simp] theorem setBuf_icmpPay : m.setBuf .icmpPay l = { m with icmpPay := l } := rfl
@[simp] theorem setBuf_pingPay : m.setBuf .pingPay l = { m with pingPay := l } := rfl
@[simp] theorem setBuf_out : m.setBuf .out l = { m with out := l } := rfl
@[simp] theorem buf_scratch : m.buf .scratch = m.scratch := rfl
@[simp] theorem buf_tcpPay : m.buf .tcpPay = m.tcpPay := rfl
@[simp] theorem buf_icmpPay : m.buf .icmpPay = m.icmpPay := rfl
@[simp] theorem buf_pingPay : m.buf .pingPay = m.pingPay := rfl
@[simp] theorem buf_out : m.buf .out = m.out := rfl
end MemorySetBuf

section MapIpBank
variable (s : State) (c : Ctx) (f : IpBank → IpBank)
@[simp] theorem mapIpBank_mem : (s.mapIpBank c f).mem = s.mem := by cases c <;> rfl
@[simp] theorem mapIpBank_params : (s.mapIpBank c f).params = s.params := by cases c <;> rfl
@[simp] theorem mapIpBank_host : (s.mapIpBank c f).host = s.host := by cases c <;> rfl
@[simp] theorem mapIpBank_rsp : (s.mapIpBank c f).rsp = s.rsp := by cases c <;> rfl
end MapIpBank

section MapTcpBank
variable (s : State) (f : TcpBank → TcpBank)
@[simp] theorem mapTcpBank_ip : (s.mapTcpBank f).ip = s.ip := rfl
@[simp] theorem mapTcpBank_icmp : (s.mapTcpBank f).icmp = s.icmp := rfl
@[simp] theorem mapTcpBank_ping : (s.mapTcpBank f).ping = s.ping := rfl
@[simp] theorem mapTcpBank_mem : (s.mapTcpBank f).mem = s.mem := rfl
@[simp] theorem mapTcpBank_params : (s.mapTcpBank f).params = s.params := rfl
@[simp] theorem mapTcpBank_host : (s.mapTcpBank f).host = s.host := rfl
@[simp] theorem mapTcpBank_rsp : (s.mapTcpBank f).rsp = s.rsp := rfl
end MapTcpBank

section MapIcmpBank
variable (s : State) (c : Ctx) (f : IcmpBank → IcmpBank)
@[simp] theorem mapIcmpBank_ip : (s.mapIcmpBank c f).ip = s.ip := by cases c <;> rfl
@[simp] theorem mapIcmpBank_tcp : (s.mapIcmpBank c f).tcp = s.tcp := by cases c <;> rfl
@[simp] theorem mapIcmpBank_mem : (s.mapIcmpBank c f).mem = s.mem := by cases c <;> rfl
@[simp] theorem mapIcmpBank_params : (s.mapIcmpBank c f).params = s.params := by cases c <;> rfl
@[simp] theorem mapIcmpBank_host : (s.mapIcmpBank c f).host = s.host := by cases c <;> rfl
@[simp] theorem mapIcmpBank_rsp : (s.mapIcmpBank c f).rsp = s.rsp := by cases c <;> rfl
end MapIcmpBank

section WriteField
variable (s : State) (c : Ctx) (r : Reg) (v : Word)
@[simp] theorem writeField_mem : (s.writeField c r v).mem = s.mem := by
  cases r <;> cases c <;> rfl
@[simp] theorem writeField_params : (s.writeField c r v).params = s.params := by
  cases r <;> cases c <;> rfl
@[simp] theorem writeField_host : (s.writeField c r v).host = s.host := by
  cases r <;> cases c <;> rfl
@[simp] theorem writeField_rsp : (s.writeField c r v).rsp = s.rsp := by
  cases r <;> cases c <;> rfl
end WriteField

section Ports
variable (s : State) (rest : List HostEvent) (cmd arg : Word)
@[simp] theorem accept_eq : s.accept rest = { s with host := rest, rsp := none } := rfl
@[simp] theorem takeResponse_eq : s.takeResponse = { s with rsp := none } := rfl
@[simp] theorem withHost_eq : s.withHost rest = { s with host := rest } := rfl
@[simp] theorem present_eq : s.present cmd arg = { s with host := .command cmd arg :: s.host } := rfl
@[simp] theorem hardReset_ip : (s.hardReset rest).ip = none := rfl
@[simp] theorem hardReset_tcp : (s.hardReset rest).tcp = none := rfl
@[simp] theorem hardReset_icmp : (s.hardReset rest).icmp = none := rfl
@[simp] theorem hardReset_ping : (s.hardReset rest).ping = none := rfl
@[simp] theorem hardReset_mem : (s.hardReset rest).mem = Memory.empty := rfl
@[simp] theorem hardReset_params : (s.hardReset rest).params = s.params := rfl
@[simp] theorem hardReset_host : (s.hardReset rest).host = rest := rfl
@[simp] theorem hardReset_rsp : (s.hardReset rest).rsp = none := rfl
end Ports

end Sys2Proof.Machine
end

