-- ==== Sys2Proof/Laws/Memory.lean ====
section
/-! SUPPORT. The buffers: read after write, and that every write keeps the form of `Memory.wf`.  A buffer's list is its
canonical form: seen as cells (address, byte) the addresses are 0, 1, 2, ... and two buffers with the same cells are the
same list. -/

namespace Sys2Proof.Machine

theorem buf_setBuf_same (m : Memory) (b : Buf) (l : List Byte) : (m.setBuf b l).buf b = l := by
  cases b <;> rfl

theorem buf_setBuf_other (m : Memory) (b b' : Buf) (l : List Byte) (h : b' ≠ b) :
    (m.setBuf b l).buf b' = m.buf b' := by
  cases b <;> cases b' <;> first | rfl | exact absurd rfl h

theorem read_setBuf_same (m : Memory) (b : Buf) (l : List Byte) (i : Nat) : (m.setBuf b l).read b i = l[i]? := by
  simp [Memory.read, buf_setBuf_same]

theorem read_setBuf_other (m : Memory) (b b' : Buf) (l : List Byte) (i : Nat) (h : b' ≠ b) :
    (m.setBuf b l).read b' i = m.read b' i := by
  simp [Memory.read, buf_setBuf_other m b b' l h]

/-- A byte exists exactly below the buffer's length (R60). -/
theorem read_isSome_iff (m : Memory) (b : Buf) (i : Nat) : (m.read b i).isSome ↔ i < (m.buf b).length := by
  simp [Memory.read]

theorem empty_wf (p : Params) : Memory.empty.wf p := by
  simp [Memory.empty, Memory.wf]

/-- The capacity of a buffer (R40). -/
def capOf (p : Params) : Buf → Nat
  | .scratch => p.scratchCap
  | .tcpPay => p.payCap
  | .icmpPay => p.payCap
  | .pingPay => p.payCap
  | .out => p.outCap

/-- The one write of the machine keeps the form, given the new list's own. -/
theorem setBuf_wf (p : Params) (m : Memory) (b : Buf) (l : List Byte) (h : m.wf p) (hl : l.length ≤ capOf p b)
    (heven : b = .pingPay → l.length % 2 = 0) : (m.setBuf b l).wf p := by
  obtain ⟨h1, h2, h3, h4, h5, h6⟩ := h
  cases b <;> simp_all [capOf, Memory.wf]

/-- The cells of a buffer: (address, byte), addresses rising from 0. -/
def cells (l : List Byte) : List Host.Cell := l.zipIdx.map fun x => (x.2, x.1)

theorem cells_addresses (l : List Byte) : (cells l).map Prod.fst = List.range l.length := by
  simp [cells, Function.comp_def, List.zipIdx_map_snd, List.range_eq_range']

theorem cells_injective (l l' : List Byte) (h : cells l = cells l') : l = l' := by
  have := congrArg (List.map Prod.snd) h
  simpa [cells, Function.comp_def] using this

end Sys2Proof.Machine
end

