-- ==== Sys2Proof/Laws/Ops.lean ====
section
/-! SUPPORT. One lemma for each shared operation that says once what it can do; proofs cite these and do not unfold. -/

namespace Sys2Proof.Machine

/-! ### Ending a command -/

theorem raise_eq (e : Status) (s : State) : raise e s = .next (faulted s e) := rfl

theorem respond_eq (v : Word) (s : State) :
    respond v s = .next { s with rsp := some { status := .ok, result := v } } := rfl

theorem raise_next_iff (e : Status) (s t : State) : raise e s = .next t ↔ t = faulted s e := by
  rw [raise_eq]; exact ⟨fun h => by cases h; rfl, fun h => by rw [h]⟩

theorem respond_next_iff (v : Word) (s t : State) :
    respond v s = .next t ↔ t = { s with rsp := some { status := .ok, result := v } } := by
  rw [respond_eq]; exact ⟨fun h => by cases h; rfl, fun h => by rw [h]⟩

theorem lengthWord_of_lt (n : Nat) (h : n < 2 ^ 32) : lengthWord n = BitVec.ofNat 32 n := by
  rw [lengthWord, if_pos h]

/-! ### Contexts and registers -/

theorem ipBank_isSome (s : State) (c : Ctx) : (s.ipBank c).isSome = s.valid c := by
  cases c <;> simp [State.ipBank, State.valid]

/-- A register of a context has a value exactly where it exists and the context is constructed (R36, R44). -/
theorem readField_isSome (s : State) (c : Ctx) (r : Reg) :
    (s.readField c r).isSome = (r.existsIn c && s.valid c) := by
  cases r <;> cases c <;>
    simp [State.readField, State.ipBank, State.tcpBank, State.icmpBank, State.valid, Reg.existsIn]

theorem valid_mapIpBank (s : State) (c c' : Ctx) (f : IpBank → IpBank) :
    (s.mapIpBank c f).valid c' = s.valid c' := by
  cases c <;> cases c' <;> simp [State.mapIpBank, State.valid]

theorem valid_writeField (s : State) (c c' : Ctx) (r : Reg) (v : Word) :
    (s.writeField c r v).valid c' = s.valid c' := by
  cases r <;> cases c <;> cases c' <;>
    simp [State.writeField, State.mapIpBank, State.mapTcpBank, State.mapIcmpBank, State.valid]

/-- Rewriting the IP bank of `c` changes no register of another context. -/
theorem readField_mapIpBank_other (s : State) (c c' : Ctx) (f : IpBank → IpBank) (r : Reg) (h : c' ≠ c) :
    (s.mapIpBank c f).readField c' r = s.readField c' r := by
  cases c <;> cases c' <;> first | exact absurd rfl h | (cases r <;> rfl)

/-- An IP bank holds each register apart from every other. -/
theorem IpBank.read_write_other (b : IpBank) (r r' : IpReg) (v : Word) (h : r' ≠ r) :
    (b.write r v).read r' = b.read r' := by
  cases r <;> cases r' <;> first | rfl | exact absurd rfl h

theorem TcpBank.read_write_other (b : TcpBank) (r r' : TcpReg) (v : Word) (h : r' ≠ r) :
    (b.write r v).read r' = b.read r' := by
  cases r <;> cases r' <;> first | rfl | exact absurd rfl h

theorem IcmpBank.read_write_other (b : IcmpBank) (r r' : IcmpReg) (v : Word) (h : r' ≠ r) :
    (b.write r v).read r' = b.read r' := by
  cases r <;> cases r' <;> first | rfl | exact absurd rfl h

/-- A value that fits is read back as it was written. -/
theorem IpBank.read_write_same (b : IpBank) (r : IpReg) (v : Word) (h : v.toNat < 2 ^ r.width) :
    (b.write r v).read r = v := by
  cases r <;> apply BitVec.eq_of_toNat_eq <;> simp_all [IpBank.write, IpBank.read, IpReg.width] <;> omega

theorem TcpBank.read_write_same (b : TcpBank) (r : TcpReg) (v : Word) (h : v.toNat < 2 ^ r.width) :
    (b.write r v).read r = v := by
  cases r <;> apply BitVec.eq_of_toNat_eq <;> simp_all [TcpBank.write, TcpBank.read, TcpReg.width] <;> omega

theorem IcmpBank.read_write_same (b : IcmpBank) (r : IcmpReg) (v : Word) (h : v.toNat < 2 ^ r.width) :
    (b.write r v).read r = v := by
  cases r <;> apply BitVec.eq_of_toNat_eq <;> simp_all [IcmpBank.write, IcmpBank.read, IcmpReg.width] <;> omega

/-! ### Builders -/

@[simp] theorem be16_length (v : BitVec 16) : (be16 v).length = 2 := rfl
@[simp] theorem be32_length (v : BitVec 32) : (be32 v).length = 4 := rfl
@[simp] theorem ipSerialize_length (b : IpBank) : (ipSerialize b).length = 20 := rfl
@[simp] theorem tcpSerialize_length (b : TcpBank) : (tcpSerialize b).length = 20 := rfl
@[simp] theorem pseudo_length (src dst : BitVec 32) (p : BitVec 8) (n : BitVec 16) :
    (pseudo src dst p n).length = 12 := rfl
@[simp] theorem icmpSerialize_length (b : IcmpBank) (p : List Byte) : (icmpSerialize b p).length = 8 + p.length := by
  simp [icmpSerialize]; omega

theorem ipPrecheck_none_iff (b : IpBank) (plen : Nat) :
    ipPrecheck b plen = none ↔ plen ≤ 0xFFFF ∧ ipTotal b plen ≤ 0xFFFF := by
  unfold ipPrecheck; split
  · simp; omega
  · split <;> simp <;> omega

/-- The only refusal of an IP build (R154). -/
theorem ipPrecheck_some (b : IpBank) (plen : Nat) (e : Status) (h : ipPrecheck b plen = some e) :
    e = .fieldOverflowError ∧ (0xFFFF < plen ∨ 0xFFFF < ipTotal b plen) := by
  unfold ipPrecheck at h; split at h
  · cases h; exact ⟨rfl, .inl ‹_›⟩
  · split at h
    · cases h; exact ⟨rfl, .inr ‹_›⟩
    · cases h

/-- The order of the refusals of BUILD.TCP (R186). -/
theorem tcpPrecheck_cases (x : TcpContext) (n : Nat) :
    (x.tcp.options ≠ 0 ∧ tcpPrecheck x n = some .unsupportedFeatureError) ∨
    (x.tcp.options = 0 ∧ 0xFFFF < segLen x.tcp n ∧ tcpPrecheck x n = some .fieldOverflowError) ∨
    (x.tcp.options = 0 ∧ segLen x.tcp n ≤ 0xFFFF ∧ tcpPrecheck x n = ipPrecheck x.ip (20 + n)) := by
  unfold tcpPrecheck
  by_cases h : x.tcp.options = 0
  · by_cases h' : 0xFFFF < segLen x.tcp n
    · exact .inr (.inl ⟨h, h', by simp [h, h']⟩)
    · exact .inr (.inr ⟨h, by omega, by simp [h, h']⟩)
  · exact .inl ⟨h, if_pos h⟩

theorem padPayload_length (c : Ctx) (l : List Byte) :
    (padPayload c l).length = l.length ∨ (padPayload c l).length = l.length + 1 := by
  unfold padPayload; split <;> simp

theorem padPayload_ping_even (l : List Byte) : (padPayload .ping l).length % 2 = 0 := by
  unfold padPayload; split <;> (simp_all; try omega)

/-- What an address setter can do: refuse for VALID, refuse the text, or write the parsed address (R158, R159). -/
theorem setAddress_cases (c : Ctx) (put : Word → IpBank → IpBank) (s : State) :
    (s.valid c = false ∧ setAddress c put s = .next (faulted s .notConstructed)) ∨
    (s.valid c = true ∧ parseQuad s.mem.scratch = none ∧
      setAddress c put s = .next (faulted s .addressFormatError)) ∨
    (∃ a, s.valid c = true ∧ parseQuad s.mem.scratch = some a ∧
      setAddress c put s = respond a (s.mapIpBank c (put a))) := by
  unfold setAddress
  cases hv : s.valid c with
  | false => exact .inl ⟨rfl, rfl⟩
  | true =>
    cases hp : parseQuad s.mem.scratch with
    | none => exact .inr (.inl ⟨rfl, rfl, rfl⟩)
    | some a => exact .inr (.inr ⟨a, rfl, rfl, rfl⟩)

/-- What a port setter can do (R188, R189). -/
theorem setPort_cases (port : Word) (put : BitVec 16 → TcpBank → TcpBank) (s : State) :
    (s.valid .tcp = false ∧ setPort port put s = .next (faulted s .notConstructed)) ∨
    (s.valid .tcp = true ∧ 2 ^ 16 ≤ port.toNat ∧ setPort port put s = .next (faulted s .fieldOverflowError)) ∨
    (s.valid .tcp = true ∧ port.toNat < 2 ^ 16 ∧
      setPort port put s = respond 0 (s.mapTcpBank (put (port.setWidth 16)))) := by
  unfold setPort fits
  cases hv : s.valid .tcp with
  | false => exact .inl ⟨rfl, rfl⟩
  | true =>
    by_cases h : port.toNat < 2 ^ 16
    · exact .inr (.inr ⟨rfl, h, by rw [if_pos rfl, if_pos (decide_eq_true h)]⟩)
    · exact .inr (.inl ⟨rfl, by omega, by rw [if_pos rfl, if_neg (by simpa using h), raise_eq]⟩)

end Sys2Proof.Machine
end

