-- ==== Sys2Proof/Laws/PerInstr.lean ====
section
/-! SUPPORT. A statement about every instruction as syntax, one lemma per constructor. -/

namespace Sys2Proof.Laws.EncodesRow

/-- A `CMD` word with the reserved byte zero that selects the row of a mnemonic (R83, R86). -/
abbrev Selects (cmd : Word) (name : String) : Prop :=
  cmdZero cmd = 0 ∧ ∃ row ∈ opcodeTable, row.mnemonic = name ∧ cmd &&& row.mask = row.bits

/-- The first word of the encoding has the reserved byte zero and selects the row of the instruction's mnemonic (R86). -/
def Statement (i : Instr) : Prop := Selects (encode i).1 i.mnemonic

theorem selects_rdf (c : Ctx) (r : Reg) : Selects (mkCmd .rdf c.toByte r.sel) "RDF" := by
  cases c <;> rcases r with r | r | r <;> cases r <;> decide

theorem selects_wrf (c : Ctx) (r : Reg) : Selects (mkCmd .wrf c.toByte r.sel) "WRF" := by
  cases c <;> rcases r with r | r | r <;> cases r <;> decide

theorem selects_ldb (b : Buf) : Selects (mkCmd .ldb b.toByte 0) "LDB" := by
  cases b <;> decide

theorem csum : Statement .csum := by unfold Statement; decide
theorem constructIp (proto : Word) : Statement (.constructIp proto) :=
  show Selects (mkCmd .construct Ctx.ip.toByte 0) "CONSTRUCT.IP" by decide
theorem constructTcp (seq : Word) : Statement (.constructTcp seq) :=
  show Selects (mkCmd .construct Ctx.tcp.toByte 0) "CONSTRUCT.TCP" by decide
theorem constructIcmp (icmpType : Word) : Statement (.constructIcmp icmpType) :=
  show Selects (mkCmd .construct Ctx.icmp.toByte 0) "CONSTRUCT.ICMP" by decide
theorem constructPing (ident : Word) : Statement (.constructPing ident) :=
  show Selects (mkCmd .construct Ctx.ping.toByte 0) "CONSTRUCT.PING" by decide
theorem buildIp (len : Word) : Statement (.buildIp len) :=
  show Selects (mkCmd .build Ctx.ip.toByte 0) "BUILD.IP" by decide
theorem buildTcp : Statement .buildTcp := by unfold Statement; decide
theorem buildIcmp : Statement .buildIcmp := by unfold Statement; decide
theorem buildPing : Statement .buildPing := by unfold Statement; decide
theorem setSrc (ctx : Ctx) : Statement (.setSrc ctx) := by unfold Statement; cases ctx <;> decide
theorem setDst (ctx : Ctx) : Statement (.setDst ctx) := by unfold Statement; cases ctx <;> decide
theorem setSport (port : Word) : Statement (.setSport port) :=
  show Selects (mkCmd .setSport Ctx.tcp.toByte 0) "SETSPORT" by decide
theorem setDport (port : Word) : Statement (.setDport port) :=
  show Selects (mkCmd .setDport Ctx.tcp.toByte 0) "SETDPORT" by decide
theorem setPay (ctx : Ctx) : Statement (.setPay ctx) := by unfold Statement; cases ctx <;> decide
theorem rdf (ctx : Ctx) (reg : Reg) : Statement (.rdf ctx reg) := selects_rdf ctx reg
theorem wrf (ctx : Ctx) (reg : Reg) (value : Word) : Statement (.wrf ctx reg value) := selects_wrf ctx reg
theorem clr : Statement .clr := by unfold Statement; decide
theorem push (byte : Word) : Statement (.push byte) :=
  show Selects (mkCmd .push Buf.scratch.toByte 0) "PUSH" by decide
theorem ldb (buf : Buf) (index : Word) : Statement (.ldb buf index) := selects_ldb buf
theorem getLen (buf : Buf) : Statement (.getLen buf) := by unfold Statement; cases buf <;> decide

end Sys2Proof.Laws.EncodesRow
end

