-- ==== Sys2Proof/Laws/Wire.lean ====
section
/-! SUPPORT. The serializers against the wire layouts written as arithmetic in Safety.lean: each serializer emits exactly
the bytes of its layout. -/

namespace Sys2Proof.Machine

theorem extract_eq_natByte (w : Nat) (v : BitVec w) (k : Nat) : v.extractLsb' k 8 = natByte (v.toNat / 2 ^ k) := by
  apply BitVec.eq_of_toNat_eq
  simp [natByte, Nat.shiftRight_eq_div_pow]

theorem toNat_pack (m n : Nat) (a : BitVec m) (b : BitVec n) : (a ++ b).toNat = a.toNat * 2 ^ n + b.toNat := by
  rw [BitVec.toNat_append, ← Nat.shiftLeft_add_eq_or_of_lt b.isLt, Nat.shiftLeft_eq]

theorem be16_eq (v : BitVec 16) : be16 v = [natByte (v.toNat / 256), natByte v.toNat] := by
  simp [be16, extract_eq_natByte]

theorem be32_eq (v : BitVec 32) :
    be32 v = [natByte (v.toNat / 2 ^ 24), natByte (v.toNat / 2 ^ 16), natByte (v.toNat / 2 ^ 8), natByte v.toNat] := by
  simp [be32, extract_eq_natByte]

/-- Bytes 6 and 7 (R152): `FLAGS*32 + (FRAGOFF >> 8)`, then the low byte of `FRAGOFF`. -/
theorem be16_flags_fragoff (f : BitVec 3) (o : BitVec 13) :
    be16 (f ++ o) = [natByte (f.toNat * 32 + o.toNat / 256), natByte o.toNat] := by
  have hf := f.isLt
  have ho := o.isLt
  have hi : (f ++ o).toNat / 256 = f.toNat * 32 + o.toNat / 256 := by rw [toNat_pack]; omega
  have lo : natByte (f ++ o).toNat = natByte o.toNat := by
    apply BitVec.eq_of_toNat_eq
    rw [toNat_pack]; simp [natByte]; omega
  rw [be16_eq, hi, lo]

theorem ipSerialize_eq_wireIp (b : IpBank) : ipSerialize b = wireIp b := by
  have h0 : b.version ++ b.ihl = natByte (b.version.toNat * 16 + b.ihl.toNat) := by
    have := b.version.isLt; have := b.ihl.isLt
    apply BitVec.eq_of_toNat_eq
    rw [toNat_pack]; simp [natByte]; omega
  have h1 : b.dscp ++ b.ecn = natByte (b.dscp.toNat * 4 + b.ecn.toNat) := by
    have := b.dscp.isLt; have := b.ecn.isLt
    apply BitVec.eq_of_toNat_eq
    rw [toNat_pack]; simp [natByte]; omega
  rw [ipSerialize, be16_flags_fragoff]
  simp only [be16_eq, be32_eq, wireIp, List.cons_append, List.nil_append, h0, h1]

theorem byte12_eq (b : TcpBank) : b.byte12 = natByte (b.hlw.toNat * 16 + b.rsvd.toNat * 2 + b.ns.toNat) := by
  have := b.hlw.isLt; have := b.rsvd.isLt; have := b.ns.isLt
  apply BitVec.eq_of_toNat_eq
  unfold TcpBank.byte12
  rw [toNat_pack, toNat_pack]; simp [natByte]; omega

theorem byte13_eq (b : TcpBank) :
    b.byte13 = natByte (b.cwr.toNat * 128 + b.ece.toNat * 64 + b.urg.toNat * 32 + b.ack.toNat * 16 +
      b.psh.toNat * 8 + b.rst.toNat * 4 + b.syn.toNat * 2 + b.fin.toNat) := by
  have := b.cwr.isLt; have := b.ece.isLt; have := b.urg.isLt; have := b.ack.isLt
  have := b.psh.isLt; have := b.rst.isLt; have := b.syn.isLt; have := b.fin.isLt
  apply BitVec.eq_of_toNat_eq
  unfold TcpBank.byte13
  rw [toNat_pack, toNat_pack, toNat_pack, toNat_pack, toNat_pack, toNat_pack, toNat_pack]
  simp [natByte]; omega

theorem tcpSerialize_eq_wireTcp (b : TcpBank) : tcpSerialize b = wireTcp b := by
  simp only [tcpSerialize, be16_eq, be32_eq, wireTcp, List.cons_append, List.nil_append, byte12_eq, byte13_eq]

theorem icmpSerialize_eq_wireIcmp (b : IcmpBank) (p : List Byte) : icmpSerialize b p = wireIcmp b ++ p := by
  simp [icmpSerialize, be16_eq, be32_eq, wireIcmp]

theorem pseudo_eq_wirePseudo (src dst : BitVec 32) (proto : BitVec 8) (n : Nat) (h : n ≤ 0xFFFF) :
    pseudo src dst proto (BitVec.ofNat 16 n) = wirePseudo src dst proto n := by
  simp only [pseudo, be16_eq, be32_eq, wirePseudo, BitVec.toNat_ofNat, Nat.mod_eq_of_lt (show n < 2 ^ 16 by omega)]
  rfl

theorem succId_eq (v : BitVec 16) : succId v = if v.toNat = 0xFFFF then 1 else BitVec.ofNat 16 (v.toNat + 1) := by
  unfold succId
  by_cases h : v = 0xFFFF
  · subst h; rfl
  · rw [if_neg h, if_neg fun h' => h (BitVec.eq_of_toNat_eq (by simpa using h'))]
    apply BitVec.eq_of_toNat_eq; simp [BitVec.toNat_add]

/-- The successor is never 0 (R155). -/
theorem succId_ne_zero (v : BitVec 16) : succId v ≠ 0 := by
  intro h
  have h' := congrArg BitVec.toNat h
  rw [succId_eq] at h'
  have := v.isLt
  split at h' <;> simp at h'
  omega

/-- What an IP build leaves and emits (R161). -/
theorem ipEmit_eq (b : IpBank) (plen : Nat) : ipEmit b plen = (builtIp b plen, wireIp (emittedIp b plen)) := by
  simp only [ipEmit, ipComputed, ipTotal, builtIp, emittedIp, ipSerialize_eq_wireIp, succId_eq]

/-- What the ICMP message build leaves and emits (R213). -/
theorem icmpBuild_eq (x : IcmpContext) (p : List Byte) :
    icmpBuild x p = ({ ip := builtIp x.ip (8 + p.length), icmp := builtIcmp x.icmp p },
      wireIp (emittedIp x.ip (8 + p.length)) ++ (wireIcmp (builtIcmp x.icmp p) ++ p)) := by
  simp only [icmpBuild, icmpComputed, ipEmit_eq, icmpSerialize_length]
  simp only [builtIcmp, icmpSerialize_eq_wireIcmp]

/-- What the TCP build leaves and emits, once the segment length fits (R186). -/
theorem tcpBuild_eq (x : TcpContext) (p : List Byte) (h : segLen x.tcp p.length ≤ 0xFFFF) :
    tcpBuild x p = ({ ip := builtIp x.ip (20 + p.length), tcp := builtTcp x p },
      wireIp (emittedIp x.ip (20 + p.length)) ++ wireTcp (builtTcp x p) ++ p) := by
  simp only [tcpBuild, tcpComputed, builtTcp, ipEmit_eq, tcpSerialize_eq_wireTcp]
  rw [pseudo_eq_wirePseudo _ _ _ _ h]
  rfl

end Sys2Proof.Machine
end

