-- ==== Sys2Proof/Tests/Slice0.lean ====
section
/-! SUPPORT. The model's own tests.  Expected values are those of 95_test_vectors.md (`V1` to `V63b`) or are read off a
table of 30_encoding.md or 10_state.md; each test names its source.  The last part shows, for every obligation that has
hypotheses, states and operands that meet them. -/

namespace Sys2Proof.Tests

open Sys2Proof.Machine

/-! ### Helpers -/

/-- The state a command leaves. -/
def after (i : Instr) (s : State) : State :=
  match exec i s with
  | .next t => t
  | .fault _ => s
  | .refused _ => s

/-- The answer a command leaves: `rsp_status` and `rsp_result` as numbers. -/
def answer (i : Instr) (s : State) : Option (Nat × Nat) :=
  (after i s).rsp.map fun q => (q.status.code.toNat, q.result.toNat)

/-- The state one step leaves. -/
def stepped (s : State) : State :=
  match step s with
  | .next t => t
  | .fault _ => s
  | .refused _ => s

/-- The answer to a pair of words presented in reset state. -/
def resetAnswer (cmd arg : Word) : Option (Nat × Nat) :=
  (stepped (State.reset.present cmd arg)).rsp.map fun q => (q.status.code.toNat, q.result.toNat)

/-- A state whose SCRATCH holds `l`. -/
def scratched (s : State) (l : List Byte) : State := { s with mem := { s.mem with scratch := l } }

/-- The text of `V30e`, `192.168.0.1`. -/
def addressText : List Byte := [0x31, 0x39, 0x32, 0x2E, 0x31, 0x36, 0x38, 0x2E, 0x30, 0x2E, 0x31]

/-- An IP bank as R151 leaves it, with the two addresses of `V20`. -/
def bank (proto : BitVec 8) : IpBank :=
  { version := 4, ihl := 5, dscp := 0, ecn := 0, totlen := 0, ident := 1, flags := 0, fragoff := 0, ttl := 64,
    proto := proto, hcsum := 0, src := 0xC0A80001, dst := 0x08080808 }

/-- The state before `V20`. -/
def ipState : State := { State.reset with ip := some (bank 6) }

/-- The TCP bank before `V31`. -/
def segment : TcpBank :=
  { sport := 12345, dport := 80, seq := 0x01020304, acknum := 0, hlw := 5, rsvd := 0, ns := 0, cwr := 0, ece := 0,
    urg := 0, ack := 0, psh := 0, rst := 0, syn := 1, fin := 0, window := 8192, tcsum := 0, urgptr := 0, options := 0 }

/-- The state before `V31`. -/
def tcpState : State := { State.reset with tcp := some { ip := bank 6, tcp := segment } }

/-- The state before the build of `V40`. -/
def icmpState : State :=
  { State.reset with
    icmp := some { ip := bank 1, icmp := { icmpType := 8, code := 0, icsum := 0, option := 0x12340001 } }
    mem := { Memory.empty with icmpPay := [0x61, 0x62, 0x63, 0x64] } }

/-- The state before the build of `V47`. -/
def pingState : State :=
  { State.reset with
    ping := some { ip := bank 1, icmp := { icmpType := 8, code := 0, icsum := 0, option := 0xBEEF0000 } }
    mem := { Memory.empty with pingPay := [0x70, 0x69, 0x6E, 0x67, 0x21, 0x20] } }

/-- A TCP state with `OPTIONS` set, which R186 refuses to build. -/
def optionState : State := { State.reset with tcp := some { ip := bank 6, tcp := { segment with options := 5 } } }

/-- A TCP state with `n` zero bytes of payload. -/
def tcpLong (hlw : BitVec 4) (n : Nat) : State :=
  { State.reset with
    tcp := some { ip := bank 6, tcp := { segment with hlw := hlw } }
    mem := { Memory.empty with tcpPay := List.replicate n 0 } }

/-- An ICMP state with `n` zero bytes of payload. -/
def icmpLong (n : Nat) : State := { icmpState with mem := { Memory.empty with icmpPay := List.replicate n 0 } }

/-- A Ping state with `n` zero bytes of payload. -/
def pingLong (n : Nat) : State := { pingState with mem := { Memory.empty with pingPay := List.replicate n 0 } }

theorem tcpLong_length (hlw : BitVec 4) (n : Nat) : (tcpLong hlw n).mem.tcpPay.length = n := List.length_replicate
theorem icmpLong_length (n : Nat) : (icmpLong n).mem.icmpPay.length = n := List.length_replicate
theorem pingLong_length (n : Nat) : (pingLong n).mem.pingPay.length = n := List.length_replicate

/-- Small capacities, to reach a full buffer with few bytes: 15 is the least SCRATCH_CAP of R4. -/
def smallParams : Params := { Params.default with pingDefaultPayload := [0x61, 0x62], scratchCap := 15, payCap := 2 }

/-- SCRATCH full under `smallParams`. -/
def fullState : State :=
  { scratched pingState (List.replicate 15 0x41) with params := smallParams }

/-! ### Parameters (R4) -/

theorem test_default_params_meet_r4 : Params.default.wf := by decide
theorem test_small_params_meet_r4 : smallParams.wf := by decide

/-! ### Well-formedness: ill-formed terms are refused (R36, R86) -/

theorem test_wf_refuses_setpay_ip : Instr.wf (.setPay .ip) = false := by decide
theorem test_wf_refuses_rdf_of_absent_registers :
    Instr.wf (.rdf .ip (.tcp .sport)) = false ∧ Instr.wf (.rdf .icmp (.tcp .seq)) = false ∧
    Instr.wf (.rdf .tcp (.icmp .icmpType)) = false ∧ Instr.wf (.rdf .ip (.icmp .option)) = false := by decide
theorem test_wf_refuses_wrf_of_absent_registers :
    Instr.wf (.wrf .ping (.tcp .sport) 0) = false ∧ Instr.wf (.wrf .tcp (.icmp .code) 0) = false := by decide
theorem test_wf_refuses_wrf_of_read_only_registers :
    Instr.wf (.wrf .ip (.ip .totlen) 5) = false ∧ Instr.wf (.wrf .ip (.ip .ident) 5) = false ∧
    Instr.wf (.wrf .ip (.ip .hcsum) 0) = false ∧ Instr.wf (.wrf .tcp (.ip .proto) 6) = false ∧
    Instr.wf (.wrf .tcp (.tcp .tcsum) 0) = false ∧ Instr.wf (.wrf .icmp (.icmp .icsum) 0) = false ∧
    Instr.wf (.wrf .ping (.icmp .icmpType) 8) = false ∧ Instr.wf (.wrf .ping (.icmp .option) 0) = false := by decide
theorem test_wf_accepts_the_rest :
    Instr.wf (.wrf .ip (.ip .proto) 17) = true ∧ Instr.wf (.wrf .icmp (.icmp .icmpType) 0) = true ∧
    Instr.wf (.rdf .ping (.icmp .icmpType)) = true ∧ Instr.wf (.setPay .icmp) = true := by decide

/-! ### Decoding: every constructor by a word written out from R81, R84, R85, R86 (op, unit, sel, 00; then ARG) -/

theorem test_decode_csum : decode 0x01000000 0 = .ok .csum := by decide
theorem test_decode_construct_ip : decode 0x10000000 6 = .ok (.constructIp 6) := by decide
theorem test_decode_construct_tcp : decode 0x10010000 0x01020304 = .ok (.constructTcp 0x01020304) := by decide
theorem test_decode_construct_icmp : decode 0x10020000 8 = .ok (.constructIcmp 8) := by decide
theorem test_decode_construct_ping : decode 0x10030000 0xBEEF = .ok (.constructPing 0xBEEF) := by decide
theorem test_decode_build_ip : decode 0x11000000 0x14 = .ok (.buildIp 20) := by decide
theorem test_decode_build_tcp : decode 0x11010000 0 = .ok .buildTcp := by decide
theorem test_decode_build_icmp : decode 0x11020000 0 = .ok .buildIcmp := by decide
theorem test_decode_build_ping : decode 0x11030000 0 = .ok .buildPing := by decide
theorem test_decode_setsrc : decode 0x12020000 0 = .ok (.setSrc .icmp) := by decide
theorem test_decode_setdst : decode 0x13030000 0 = .ok (.setDst .ping) := by decide
theorem test_decode_setsport : decode 0x14010000 0x3039 = .ok (.setSport 12345) := by decide
theorem test_decode_setdport : decode 0x15010000 0x50 = .ok (.setDport 80) := by decide
theorem test_decode_setpay : decode 0x16030000 0 = .ok (.setPay .ping) := by decide
theorem test_decode_rdf : decode 0x20024300 0 = .ok (.rdf .icmp (.icmp .option)) := by decide
theorem test_decode_wrf : decode 0x21012D00 1 = .ok (.wrf .tcp (.tcp .syn) 1) := by decide
theorem test_decode_clr : decode 0x30000000 0 = .ok .clr := by decide
theorem test_decode_push : decode 0x31000000 0x141 = .ok (.push 0x141) := by decide
theorem test_decode_ldb : decode 0x32040000 9 = .ok (.ldb .out 9) := by decide
theorem test_decode_getlen : decode 0x33030000 0 = .ok (.getLen .pingPay) := by decide

/-- Each letter of R88, by a row of `V60` and `V61`. -/
theorem test_decode_refusals_by_letter :
    decode 0x02000000 0 = .error .reservedOpcode ∧ decode 0x01000001 0 = .error .reservedBits ∧
    decode 0x10000100 6 = .error .selNotZero ∧ decode 0x01010000 0 = .error .unitNotZero ∧
    decode 0x16000000 0 = .error .reservedUnit ∧ decode 0x20014000 0 = .error .noSuchField ∧
    decode 0x21034000 8 = .error .readOnlyField ∧ decode 0x33000000 1 = .error .argNotZero := by decide

/-- A row's number with `ARG` above `CMD` (log entry 12), and the row's pattern alone. -/
theorem test_decodeTableWord :
    decodeTableWord 64 0x0000000121012D00 = some (.wrf .tcp (.tcp .syn) 1) ∧
    decodeTableWord 32 0x11000000 = some (.buildIp 0) ∧ decodeTableWord 32 0x16000000 = none := by decide

/-- The example of R94. -/
theorem test_assembly_text :
    Instr.assembly (.wrf .tcp (.tcp .syn) 1) = "WRF TCP, SYN, 1" ∧ Instr.assembly .buildTcp = "BUILD.TCP" := by decide

/-! ### One step of each command -/

/-- `V2`. -/
theorem test_csum_v2 :
    answer .csum (scratched State.reset [0x00, 0x01, 0xF2, 0x03, 0xF4, 0xF5, 0xF6, 0xF7]) = some (0, 0x220D) := by decide
/-- `V4`: an odd length is padded at the end. -/
theorem test_csum_v4 : answer .csum (scratched State.reset [0x12, 0x34, 0x56]) = some (0, 0x97CB) := by decide

/-- `V29b`: the operand is not truncated. -/
theorem test_construct_ip_v29b : answer (.constructIp 0x106) State.reset = some (1, 0) := by decide
/-- `V29e`: a second CONSTRUCT starts afresh. -/
theorem test_construct_ip_v29e : (after (.constructIp 1) ipState).readField .ip (.ip .src) = some 0 := by decide
/-- R180: `HLW` is 5 and `SEQ` the operand. -/
theorem test_construct_tcp :
    (after (.constructTcp 0x80000001) State.reset).readField .tcp (.tcp .hlw) = some 5 ∧
    (after (.constructTcp 0x80000001) State.reset).readField .tcp (.tcp .seq) = some 0x80000001 := by decide
/-- `V44b`, `V44c`. -/
theorem test_construct_icmp_v44 :
    answer (.constructIcmp 15) State.reset = some (1, 0) ∧ answer (.constructIcmp 14) State.reset = some (0, 0) := by
  decide
/-- `V50a`, `V50b`. -/
theorem test_construct_ping_v50 :
    answer (.constructPing 0x10000) State.reset = some (4, 0) ∧
    (after (.constructPing 0xFFFF) State.reset).readField .ping (.icmp .option) = some 0xFFFF0000 := by decide

/-- `V20`. -/
theorem test_build_ip_v20 :
    (after (.buildIp 20) ipState).mem.out =
      [0x45, 0x00, 0x00, 0x28, 0x00, 0x01, 0x00, 0x00, 0x40, 0x06, 0xAA, 0x16, 0xC0, 0xA8, 0x00, 0x01,
       0x08, 0x08, 0x08, 0x08] ∧
    (after (.buildIp 20) ipState).readField .ip (.ip .ident) = some 2 := by decide
/-- `V24`, `V26`: 65515 is the longest payload of a five-word header. -/
theorem test_build_ip_v24_v26 :
    answer (.buildIp 65516) ipState = some (4, 0) ∧ answer (.buildIp 65515) ipState = some (0, 20) := by decide
/-- `V31`. -/
theorem test_build_tcp_v31 :
    (after .buildTcp tcpState).mem.out.drop 20 =
      [0x30, 0x39, 0x00, 0x50, 0x01, 0x02, 0x03, 0x04, 0x00, 0x00, 0x00, 0x00, 0x50, 0x02, 0x20, 0x00,
       0x8A, 0x9A, 0x00, 0x00] := by decide
/-- `V37a` without its payload: `OPTIONS` must be zero. -/
theorem test_build_tcp_v37a : answer .buildTcp optionState = some (3, 0) := by decide
/-- `V40`. -/
theorem test_build_icmp_v40 :
    (after .buildIcmp icmpState).mem.out.drop 20 =
      [0x08, 0x00, 0x21, 0x04, 0x12, 0x34, 0x00, 0x01, 0x61, 0x62, 0x63, 0x64] := by decide
/-- `V47`: the sequence number emitted is the one after the increment. -/
theorem test_build_ping_v47 :
    (after .buildPing pingState).mem.out.drop 20 =
      [0x08, 0x00, 0x39, 0x1E, 0xBE, 0xEF, 0x00, 0x01, 0x70, 0x69, 0x6E, 0x67, 0x21, 0x20] ∧
    answer .buildPing pingState = some (0, 34) := by decide

/-- `V30e`, `V30m`. -/
theorem test_setsrc_v30 :
    answer (.setSrc .ip) (scratched ipState addressText) = some (0, 0xC0A80001) ∧
    answer (.setSrc .ip) (scratched ipState [0x32, 0x35, 0x36, 0x2E, 0x31, 0x2E, 0x31, 0x2E, 0x31]) = some (2, 0) := by
  decide
/-- `V30c`: leading zeros; the embedded bank of a transport context is written. -/
theorem test_setdst_v30c :
    (after (.setDst .tcp) (scratched tcpState
      [0x30, 0x31, 0x30, 0x2E, 0x30, 0x30, 0x31, 0x2E, 0x30, 0x30, 0x30, 0x2E, 0x30, 0x30, 0x39])).readField
        .tcp (.ip .dst) = some 0x0A010009 := by decide
/-- `V38a`, `V38c`. -/
theorem test_setsport_v38 :
    answer (.setSport 65536) tcpState = some (4, 0) ∧
    (after (.setSport 0) tcpState).readField .tcp (.tcp .sport) = some 0 := by decide
/-- `V38b`. -/
theorem test_setdport_v38b :
    (after (.setDport 65535) tcpState).readField .tcp (.tcp .dport) = some 0xFFFF ∧
    (after (.setDport 65535) tcpState).readField .tcp (.tcp .sport) = some 12345 := by decide
/-- `V16n`: PING pads an odd payload with a space. -/
theorem test_setpay_v16n :
    answer (.setPay .ping) (scratched pingState [0x70, 0x69, 0x6E, 0x67, 0x21]) = some (0, 6) ∧
    (after (.setPay .ping) (scratched pingState [0x70, 0x69, 0x6E, 0x67, 0x21])).mem.read .pingPay 5 = some 0x20 := by
  decide
/-- `V16p`: ICMP does not pad. -/
theorem test_setpay_v16p : answer (.setPay .icmp) (scratched icmpState [0xAA, 0xBB, 0xCC]) = some (0, 3) := by decide
/-- `V62g`, and a register of the embedded bank. -/
theorem test_rdf :
    answer (.rdf .icmp (.icmp .icmpType)) State.reset = some (6, 0) ∧
    answer (.rdf .tcp (.ip .ttl)) tcpState = some (0, 64) := by decide
/-- `V15f`: the largest value of `FRAGOFF`, and one more. -/
theorem test_wrf_v15f :
    (after (.wrf .ip (.ip .fragoff) 0x1FFF) ipState).readField .ip (.ip .fragoff) = some 0x1FFF ∧
    answer (.wrf .ip (.ip .fragoff) 0x2000) ipState = some (4, 0) := by decide
/-- `V62h`: VALID is checked before the width. -/
theorem test_wrf_v62h : answer (.wrf .ip (.ip .ttl) 999) State.reset = some (6, 0) := by decide
/-- `V16g`. -/
theorem test_clr_v16g : (after .clr (scratched State.reset [0x31])).mem.scratch = [] := by decide
/-- `V16f`, and a second byte goes behind the first. -/
theorem test_push :
    answer (.push 0x100) (scratched State.reset [0x31]) = some (4, 0) ∧
    (after (.push 0x32) (scratched State.reset [0x31])).mem.scratch = [0x31, 0x32] := by decide
/-- `V16h`, `V16i` at the least SCRATCH_CAP: the operand check comes first. -/
theorem test_push_full : answer (.push 0x41) fullState = some (7, 0) ∧ answer (.push 0x141) fullState = some (4, 0) := by
  decide
/-- `V16d`, `V16e`. -/
theorem test_ldb_v16 :
    answer (.ldb .scratch 0) (scratched State.reset [0x31]) = some (0, 0x31) ∧
    answer (.ldb .scratch 1) (scratched State.reset [0x31]) = some (7, 0) := by decide
/-- `V16a`, `V16q` with a payload of six bytes. -/
theorem test_getlen :
    answer (.getLen .out) State.reset = some (0, 0) ∧ answer (.getLen .pingPay) pingState = some (0, 6) := by decide

/-! ### Steps -/

/-- `V60j`: decoding comes before VALID. -/
theorem test_step_v60j : resetAnswer 0x11010000 1 = some (5, 0) := by decide
/-- `V62b`. -/
theorem test_step_v62b : resetAnswer 0x11010000 0 = some (6, 0) := by decide
/-- `V1`: CSUM in reset state. -/
theorem test_step_v1 : resetAnswer 0x01000000 0 = some (0, 0xFFFF) := by decide
/-- R280: `rst` clears VALID and the buffers. -/
theorem test_step_reset :
    (stepped { pingState with host := [.reset] }).valid .ping = false ∧
    (stepped { pingState with host := [.reset] }).mem = Memory.empty := by decide
/-- R284: the host takes the response. -/
theorem test_step_take_response :
    (stepped { after .clr ipState with host := [.takeResponse] }) = ipState := by decide

/-! ### Witnesses: states and operands that meet the hypotheses of each obligation that has some -/

/-- Presents one command in a state. -/
def shown (s : State) (cmd arg : Word) : State := { s with host := [.command cmd arg, .takeResponse] }

theorem witness_DecodeOfEncodeIsTheCommand :
    Instr.wf (.wrf .ping (.icmp .code) 0xFF) = true ∧ Instr.wf (.setPay .ping) = true ∧
    Instr.wf (.ldb .out 0xFFFFFFFF) = true := by decide

theorem witness_AcceptedWordsAreTheEncoding : decode 0x21034100 0xFF = .ok (.wrf .ping (.icmp .code) 0xFF) := by decide

theorem witness_AcceptedWordSelectsItsRowAlone : decode 0x20030C00 0 = .ok (.rdf .ping (.ip .dst)) := by decide

/-- Clause by clause: a word that decodes, one that does not, no event, and a row's word. -/
theorem witness_StepRunsTheDecodedCommand :
    ((shown ipState 0x11000000 20).host = .command 0x11000000 20 :: [.takeResponse] ∧
      decode 0x11000000 20 = .ok (.buildIp 20)) ∧
    ((shown ipState 0x16000000 0).host = .command 0x16000000 0 :: [.takeResponse] ∧
      decode 0x16000000 0 = .error .reservedUnit) ∧
    ipState.host = [] ∧ decodeTableWord 64 0x0000001411000000 = some (.buildIp 20) := by decide

theorem witness_EveryCommandIsAnsweredInItsStep :
    (shown ipState 0xFFFFFFFF 0).host = .command 0xFFFFFFFF 0 :: [.takeResponse] := by decide

theorem witness_HardResetLeavesNothing :
    { pingState with host := [.reset] }.host = .reset :: [] ∧ Instr.wf .buildPing = true ∧
    Instr.context .buildPing = some .ping ∧ ¬ Instr.constructs .buildPing .ping := by
  refine ⟨rfl, rfl, rfl, id⟩

/-- A faulting meaning, and a step on an illegal pair of words. -/
theorem witness_FaultChangesNothing :
    (exec (.buildIp 65516) ipState = .next (after (.buildIp 65516) ipState) ∧
      (after (.buildIp 65516) ipState).rsp = some { status := .fieldOverflowError, result := 0 } ∧
      Status.fieldOverflowError ≠ .ok) ∧
    (step (shown ipState 0xFFFFFFFF 0) = .next (stepped (shown ipState 0xFFFFFFFF 0)) ∧
      (stepped (shown ipState 0xFFFFFFFF 0)).rsp = some { status := .illegalCommand, result := 0 }) :=
  ⟨⟨rfl, by decide, by decide⟩, rfl, by decide⟩

/-- (g) of R88 holds of `V61d`, and no condition holds of `WRF PING, CODE, 255`, the last value of its field. -/
theorem witness_IllegalExactlyByRule :
    illegalByRule 0x21034000 8 ∧ ¬ illegalByRule 0x21034100 0xFF ∧
    (shown ipState 0x21034000 8).host = .command 0x21034000 8 :: [.takeResponse] :=
  ⟨by simp [illegalByRule, illegalFields], by simp [illegalByRule, illegalFields], rfl⟩

/-- Both directions, and a command that names no context. -/
theorem witness_NotConstructedExactlyWithoutValid :
    (Instr.wf .buildTcp = true ∧ Instr.context .buildTcp = some .tcp ∧ ¬ Instr.constructs .buildTcp .tcp ∧
      ipState.valid .tcp = false) ∧
    (Instr.wf (.constructIp 10) = true ∧ Instr.constructs (.constructIp 10) .ip) ∧
    (exec .buildTcp ipState = .next (after .buildTcp ipState) ∧
      (after .buildTcp ipState).rsp = some { status := .notConstructed, result := 0 }) :=
  ⟨⟨rfl, rfl, id, rfl⟩, ⟨rfl, rfl⟩, rfl, by decide⟩

/-- Every error of the column is answered by some command of its list. -/
theorem witness_EachErrorHasItsCommands :
    answer (.constructIp 10) ipState = some (1, 0) ∧ answer (.constructIcmp 1) ipState = some (1, 0) ∧
    answer (.setSrc .ip) ipState = some (2, 0) ∧ answer (.setDst .ip) ipState = some (2, 0) ∧
    answer .buildTcp optionState = some (3, 0) ∧
    answer (.wrf .ip (.ip .ecn) 4) ipState = some (4, 0) ∧ answer (.setSport 0x10000) tcpState = some (4, 0) ∧
    answer (.setDport 0x10000) tcpState = some (4, 0) ∧ answer (.push 0x100) ipState = some (4, 0) ∧
    answer (.constructPing 0x10000) ipState = some (4, 0) ∧ answer (.buildIp 0x10000) ipState = some (4, 0) ∧
    answer (.push 0) fullState = some (7, 0) ∧ answer (.ldb .out 0) ipState = some (7, 0) ∧
    answer (.setPay .ping) fullState = some (7, 0) := by decide

theorem witness_TermWithoutEncodingIsIllegal : Instr.wf (.wrf .ip (.ip .ident) 5) = false := by decide

/-- Both clauses: a CONSTRUCT that sets VALID, a reset that clears it. -/
theorem witness_ValidSetByConstructClearedByReset :
    (step (shown ipState 0x10010000 7) = .next (stepped (shown ipState 0x10010000 7)) ∧
      (shown ipState 0x10010000 7).valid .tcp = false ∧ (stepped (shown ipState 0x10010000 7)).valid .tcp = true) ∧
    (step { ipState with host := [.reset] } = .next (stepped { ipState with host := [.reset] }) ∧
      { ipState with host := [.reset] }.valid .ip = true ∧
      (stepped { ipState with host := [.reset] }).valid .ip = false) :=
  ⟨⟨rfl, by decide, by decide⟩, rfl, by decide, by decide⟩

/-- The three clauses: a CONSTRUCT, a BUILD at the last identification before the wrap, a read. -/
theorem witness_IdentWrittenByConstructAndBuildOnly :
    (exec (.constructIp 9) ipState = .next (after (.constructIp 9) ipState) ∧ (after (.constructIp 9) ipState).isOk ∧
      ((after (.constructIp 9) ipState).ipBank .ip).isSome = true) ∧
    (exec (.buildIp 0) { ipState with ip := some { bank 6 with ident := 0xFFFF } } =
        .next (after (.buildIp 0) { ipState with ip := some { bank 6 with ident := 0xFFFF } }) ∧
      (after (.buildIp 0) { ipState with ip := some { bank 6 with ident := 0xFFFF } }).isOk) ∧
    (exec .csum ipState = .next (after .csum ipState) ∧ ¬ Instr.constructs .csum .ip ∧ ¬ Instr.builds .csum .ip) :=
  ⟨⟨rfl, ⟨0, by decide⟩, by decide⟩, ⟨rfl, ⟨20, by decide⟩⟩, rfl, id, id⟩

/-- Both ways OUT changes: a BUILD, and a reset after one. -/
theorem witness_OutKeptUntilBuildOrReset :
    (step (shown ipState 0x11000000 0) = .next (stepped (shown ipState 0x11000000 0)) ∧
      (stepped (shown ipState 0x11000000 0)).mem.out ≠ (shown ipState 0x11000000 0).mem.out) ∧
    (step { after (.buildIp 0) ipState with host := [.reset] } =
        .next (stepped { after (.buildIp 0) ipState with host := [.reset] }) ∧
      (stepped { after (.buildIp 0) ipState with host := [.reset] }).mem.out ≠ (after (.buildIp 0) ipState).mem.out) :=
  ⟨⟨rfl, by decide⟩, rfl, by decide⟩

theorem witness_ContextsAreIsolatedForWrites :
    exec .buildTcp tcpState = .next (after .buildTcp tcpState) ∧ Instr.context .buildTcp ≠ some .ip ∧
    exec .csum tcpState = .next (after .csum tcpState) ∧ Instr.context .csum ≠ some .tcp :=
  ⟨rfl, by decide, rfl, by decide⟩

/-- Two states alike to TCP and different elsewhere: context IP, another payload and OUT. -/
theorem witness_ContextLearnsNothingOfOthers :
    Instr.context .buildTcp = some .tcp ∧
    sameView .tcp tcpState { tcpState with ip := some (bank 1), mem := { Memory.empty with out := [1], pingPay := [2, 3] } } ∧
    exec .buildTcp tcpState = .next (after .buildTcp tcpState) ∧ Instr.builds .buildTcp .tcp ∧
    (after .buildTcp tcpState).isOk := by
  refine ⟨rfl, ⟨rfl, rfl, rfl, ?_, rfl, rfl⟩, rfl, rfl, ⟨40, by decide⟩⟩
  intro b hb
  cases hb
  rfl

theorem witness_EveryRegisterFitsItsWidth :
    tcpState.readField .tcp (.tcp .window) = some 8192 ∧ ipState.readField .ip (.ip .version) = some 4 := by decide

/-- A state with a context constructed, a payload and an OUT that meets the invariant. -/
theorem witness_StepKeepsInvariant :
    State.Inv { after .buildPing pingState with host := [.command 0x11030000 0] } ∧
    step { after .buildPing pingState with host := [.command 0x11030000 0] } =
      .next (stepped { after .buildPing pingState with host := [.command 0x11030000 0] }) := by
  refine ⟨⟨by decide, by decide, by decide, ?_, ?_, ?_, ?_, ?_⟩, rfl⟩
  · intro c b h
    cases c
    · cases h
    · cases h
    · cases h
    · cases h; decide
  · intro b h; cases h
  · intro b h; cases h
  · intro b h; cases h; decide
  · intro b h; cases h; decide

/-- A message of even first part, its checksum in place. -/
theorem witness_ChecksumInPlaceVerifies :
    [0x00, 0x01, (0xF2 : Byte), 0x03].length % 2 = 0 ∧
    (ocsum [0x00, 0x01, 0xF2, 0x03, 0x00, 0x00] = 0x0DFB) := by decide

theorem witness_FoldedSumsOfPiecesAdd : [0xFF, (0xFF : Byte)].length % 2 = 0 := by decide

theorem witness_ConstructIpWritesTheBank :
    (9 : Word).toNat ≤ 9 ∧ 9 < (10 : Word).toNat := by decide

theorem witness_ConstructIcmpWritesBothBanks :
    (14 : Word).toNat ∈ [0, 3, 5, 8, 9, 10, 11, 12, 13, 14] ∧
    (1 : Word).toNat ∉ [0, 3, 5, 8, 9, 10, 11, 12, 13, 14] := by decide

theorem witness_ConstructPingWritesBothBanks :
    (0xFFFF : Word).toNat ≤ 0xFFFF ∧ 0xFFFF < (0x10000 : Word).toNat := by decide

/-- `V26`, `V24` and `V25`: the last length that fits, and both refusals. -/
theorem witness_BuildIpEmitsTheHeader :
    ipState.ip = some (bank 6) ∧
    ((65515 : Word).toNat ≤ 0xFFFF ∧ (bank 6).ihl.toNat * 4 + (65515 : Word).toNat ≤ 0xFFFF) ∧
    0xFFFF < (bank 6).ihl.toNat * 4 + (65516 : Word).toNat ∧ 0xFFFF < (65536 : Word).toNat := by decide

/-- `V37c`, the longest payload that fits; `V37a` without its payload; `V37d` and `V37e`, refused for the total length and
for the segment length. -/
theorem witness_BuildTcpEmitsTheSegment :
    ((tcpLong 5 65495).tcp = some { ip := bank 6, tcp := segment } ∧ segment.options = 0 ∧
      segment.hlw.toNat * 4 + (tcpLong 5 65495).mem.tcpPay.length ≤ 0xFFFF ∧
      20 + (tcpLong 5 65495).mem.tcpPay.length ≤ 0xFFFF ∧
      (bank 6).ihl.toNat * 4 + (20 + (tcpLong 5 65495).mem.tcpPay.length) ≤ 0xFFFF) ∧
    (optionState.tcp = some { ip := bank 6, tcp := { segment with options := 5 } } ∧
      ({ segment with options := 5 } : TcpBank).options ≠ 0) ∧
    ((tcpLong 5 65496).tcp = some { ip := bank 6, tcp := segment } ∧
      ¬ (bank 6).ihl.toNat * 4 + (20 + (tcpLong 5 65496).mem.tcpPay.length) ≤ 0xFFFF) ∧
    ((tcpLong 15 65476).tcp = some { ip := bank 6, tcp := { segment with hlw := 15 } } ∧
      ¬ (15 : BitVec 4).toNat * 4 + (tcpLong 15 65476).mem.tcpPay.length ≤ 0xFFFF) := by
  simp only [tcpLong_length]
  exact ⟨⟨rfl, by decide, by decide, by decide, by decide⟩, ⟨rfl, by decide⟩, ⟨rfl, by decide⟩, rfl, by decide⟩

/-- `V44e`, the longest payload that fits, and `V44d`, refused. -/
theorem witness_BuildIcmpEmitsTheMessage :
    ((icmpLong 65507).icmp.isSome = true ∧ 8 + (icmpLong 65507).mem.icmpPay.length ≤ 0xFFFF ∧
      (bank 1).ihl.toNat * 4 + (8 + (icmpLong 65507).mem.icmpPay.length) ≤ 0xFFFF) ∧
    ((icmpLong 65508).icmp.isSome = true ∧
      ¬ (bank 1).ihl.toNat * 4 + (8 + (icmpLong 65508).mem.icmpPay.length) ≤ 0xFFFF) := by
  simp only [icmpLong_length]
  exact ⟨⟨rfl, by decide, by decide⟩, rfl, by decide⟩

/-- `V50d`, the longest even payload that fits, and `V50c`, refused. -/
theorem witness_BuildPingAdvancesAndEmits :
    ((pingLong 65506).ping.isSome = true ∧ 8 + (pingLong 65506).mem.pingPay.length ≤ 0xFFFF ∧
      (bank 1).ihl.toNat * 4 + (8 + (pingLong 65506).mem.pingPay.length) ≤ 0xFFFF) ∧
    ((pingLong 65508).ping.isSome = true ∧
      ¬ (bank 1).ihl.toNat * 4 + (8 + (pingLong 65508).mem.pingPay.length) ≤ 0xFFFF) := by
  simp only [pingLong_length]
  exact ⟨⟨rfl, by decide, by decide⟩, rfl, by decide⟩

theorem witness_ParseQuadFollowsTheGrammar :
    parseQuad [0x30, 0x2E, 0x30, 0x2E, 0x30, 0x2E, 0x30] = some 0 ∧
    isGroup [0x32, 0x35, 0x35] 255 := by
  refine ⟨by decide, ?_, by decide, .inr (.inr ⟨0x32, 0x35, 0x35, rfl, by decide⟩)⟩
  decide

theorem witness_AddressSettersWriteTheParsedAddress :
    (scratched ipState addressText).valid .ip = true ∧
    parseQuad (scratched ipState addressText).mem.scratch = some 0xC0A80001 ∧
    parseQuad ipState.mem.scratch = none := by decide

theorem witness_PortSettersWriteThePort :
    tcpState.tcp = some { ip := bank 6, tcp := segment } ∧ (0xFFFF : Word).toNat ≤ 0xFFFF ∧
    0xFFFF < (0x10000 : Word).toNat := by decide

/-- A copy that fits and one, padded, that does not (PAY_CAP 2, SCRATCH of 15 bytes). -/
theorem witness_SetPayCopiesScratch :
    (Ctx.ping ≠ .ip ∧ pingState.valid .ping = true ∧ pingState.mem.scratch.length ≤ pingState.params.payCap) ∧
    (fullState.valid .ping = true ∧ fullState.mem.scratch.length % 2 = 1 ∧
      fullState.params.payCap < (fullState.mem.scratch ++ [0x20]).length) := by decide

theorem witness_RdfAnswersTheRegister :
    (Reg.tcp .options).existsIn .tcp = true ∧ tcpState.valid .tcp = true := by decide

theorem witness_WrfWritesThenRdfReads :
    (Reg.ip .fragoff).writableIn .ip = true ∧ ipState.valid .ip = true ∧
    (0x1FFF : Word).toNat < 2 ^ (Reg.ip .fragoff).width ∧ 2 ^ (Reg.ip .fragoff).width ≤ (0x2000 : Word).toNat := by decide

theorem witness_WrittenFieldReachesTheWire :
    ((Reg.tcp .rsvd).writableIn .tcp = true ∧ (7 : Word).toNat < 2 ^ (Reg.tcp .rsvd).width ∧
      (Reg.tcp .rsvd).wireBit = some 260) ∧
    (exec (.wrf .tcp (.tcp .rsvd) 7) tcpState = .next (after (.wrf .tcp (.tcp .rsvd) 7) tcpState) ∧
      (after (.wrf .tcp (.tcp .rsvd) 7) tcpState).isOk) ∧
    (exec (buildOf .tcp 0) (after (.wrf .tcp (.tcp .rsvd) 7) tcpState) =
        .next (after .buildTcp (after (.wrf .tcp (.tcp .rsvd) 7) tcpState)) ∧
      (after .buildTcp (after (.wrf .tcp (.tcp .rsvd) 7) tcpState)).isOk) :=
  ⟨by decide, ⟨rfl, ⟨0, by decide⟩⟩, rfl, ⟨40, by decide⟩⟩

/-- Room, a wide operand, a full SCRATCH. -/
theorem witness_ClrAndPushChangeScratch :
    ((0xFF : Word).toNat ≤ 0xFF ∧ ipState.mem.scratch.length < ipState.params.scratchCap) ∧
    0xFF < (0x100 : Word).toNat ∧ fullState.mem.scratch.length = fullState.params.scratchCap := by decide

theorem witness_LdbAndGetLenReadBuffers :
    (0 : Word).toNat < ((scratched ipState [0x31]).mem.buf .scratch).length ∧
    ((scratched ipState [0x31]).mem.buf .scratch).length ≤ (1 : Word).toNat := by decide

/-- The invariant under the default capacities, which are below 2^32. -/
theorem witness_LengthsBelowWordAreExact :
    State.Inv (after .buildPing pingState) ∧ (after .buildPing pingState).params.scratchCap < 2 ^ 32 - 1 ∧
    (after .buildPing pingState).params.outCap < 2 ^ 32 ∧
    exec (.getLen .out) (after .buildPing pingState) = .next (after (.getLen .out) (after .buildPing pingState)) := by
  refine ⟨⟨by decide, by decide, by decide, ?_, ?_, ?_, ?_, ?_⟩, by decide, by decide, rfl⟩
  · intro c b h
    cases c
    · cases h
    · cases h
    · cases h
    · cases h; decide
  · intro b h; cases h
  · intro b h; cases h
  · intro b h; cases h; decide
  · intro b h; cases h; decide

theorem witness_FrameOfReads :
    exec .csum ipState = .next (after .csum ipState) ∧
    exec (.rdf .ip (.ip .ttl)) ipState = .next (after (.rdf .ip (.ip .ttl)) ipState) ∧
    exec (.ldb .out 0) ipState = .next (after (.ldb .out 0) ipState) ∧
    exec (.getLen .out) ipState = .next (after (.getLen .out) ipState) := ⟨rfl, rfl, rfl, rfl⟩

theorem witness_FrameOfFieldWriters :
    exec (.setSrc .ip) (scratched ipState addressText) = .next (after (.setSrc .ip) (scratched ipState addressText)) ∧
    exec (.setDst .ip) (scratched ipState addressText) = .next (after (.setDst .ip) (scratched ipState addressText)) ∧
    exec (.setSport 1) tcpState = .next (after (.setSport 1) tcpState) ∧
    exec (.setDport 1) tcpState = .next (after (.setDport 1) tcpState) ∧
    exec (.wrf .tcp (.tcp .syn) 0) tcpState = .next (after (.wrf .tcp (.tcp .syn) 0) tcpState) :=
  ⟨rfl, rfl, rfl, rfl, rfl⟩

theorem witness_FrameOfBufferWriters :
    exec .clr ipState = .next (after .clr ipState) ∧
    exec (.push 1) ipState = .next (after (.push 1) ipState) ∧
    exec (.setPay .ping) pingState = .next (after (.setPay .ping) pingState) ∧ payBuf .ping = some .pingPay :=
  ⟨rfl, rfl, rfl, rfl⟩

theorem witness_FrameOfConstructs :
    exec (.constructIp 5) tcpState = .next (after (.constructIp 5) tcpState) ∧
    exec (.constructTcp 5) tcpState = .next (after (.constructTcp 5) tcpState) ∧
    exec (.constructIcmp 5) tcpState = .next (after (.constructIcmp 5) tcpState) ∧
    exec (.constructPing 5) tcpState = .next (after (.constructPing 5) tcpState) := ⟨rfl, rfl, rfl, rfl⟩

theorem witness_FrameOfBuilds :
    exec (.buildIp 5) ipState = .next (after (.buildIp 5) ipState) ∧
    exec .buildTcp tcpState = .next (after .buildTcp tcpState) ∧
    exec .buildIcmp icmpState = .next (after .buildIcmp icmpState) ∧
    exec .buildPing pingState = .next (after .buildPing pingState) := ⟨rfl, rfl, rfl, rfl⟩

theorem witness_EmittedIpHeaderVerifies :
    exec (buildOf .ip 20) ipState = .next (after (.buildIp 20) ipState) ∧ (after (.buildIp 20) ipState).isOk :=
  ⟨rfl, 20, by decide⟩

theorem witness_EmittedIcmpMessageVerifies :
    (exec (buildOf .icmp 0) icmpState = .next (after .buildIcmp icmpState) ∧ (after .buildIcmp icmpState).isOk) ∧
    (exec (buildOf .ping 0) pingState = .next (after .buildPing pingState) ∧ (after .buildPing pingState).isOk) :=
  ⟨⟨rfl, 32, by decide⟩, rfl, 34, by decide⟩

theorem witness_EmittedTcpSegmentVerifies :
    tcpState.tcp = some { ip := bank 6, tcp := segment } ∧ segment.hlw = 5 ∧
    exec .buildTcp tcpState = .next (after .buildTcp tcpState) ∧ (after .buildTcp tcpState).isOk :=
  ⟨rfl, rfl, rfl, 40, by decide⟩

theorem witness_TotalLengthIsOutLength :
    Ctx.icmp ≠ .ip ∧ icmpState.ipBank .icmp = some (bank 1) ∧ (bank 1).ihl = 5 ∧
    exec (buildOf .icmp 0) icmpState = .next (after .buildIcmp icmpState) ∧ (after .buildIcmp icmpState).isOk :=
  ⟨by decide, rfl, rfl, rfl, 32, by decide⟩

theorem witness_SecondBuildDiffersInIdAndChecksumOnly :
    ((after .buildTcp tcpState).isOk ∧ exec .buildTcp tcpState = .next (after .buildTcp tcpState)) ∧
    ((after .buildIcmp icmpState).isOk ∧ exec .buildIcmp icmpState = .next (after .buildIcmp icmpState)) :=
  ⟨⟨⟨40, by decide⟩, rfl⟩, ⟨32, by decide⟩, rfl⟩

theorem witness_IdentCyclesOverBuilds :
    ipState.ip = some (bank 6) ∧ (bank 6).ident = 1 ∧ (20 : Word).toNat ≤ 0xFFFF ∧
    (bank 6).ihl.toNat * 4 + (20 : Word).toNat ≤ 0xFFFF := by decide

theorem witness_PingSequenceWrapsOverBuilds :
    pingState.ping.isSome = true ∧ 8 + pingState.mem.pingPay.length ≤ 0xFFFF ∧
    (bank 1).ihl.toNat * 4 + (8 + pingState.mem.pingPay.length) ≤ 0xFFFF := by decide

/-- One command stands between the CONSTRUCT and the first BUILD. -/
theorem witness_FirstPingCarriesSequenceOne :
    (0x1234 : Word).toNat ≤ 0xFFFF ∧
    exec (.constructPing 0x1234) State.reset = .next (after (.constructPing 0x1234) State.reset) ∧
    runCommands [.clr] (after (.constructPing 0x1234) State.reset) =
      .next (after .clr (after (.constructPing 0x1234) State.reset)) ∧
    (∀ i ∈ [Instr.clr], (∀ w, i ≠ .wrf .ping (.icmp .code) w) ∧ ¬ i.constructs .ping) ∧
    (∀ before rest, [Instr.clr] ≠ before ++ .buildPing :: rest) ∧
    exec .buildPing (after .clr (after (.constructPing 0x1234) State.reset)) =
      .next (after .buildPing (after .clr (after (.constructPing 0x1234) State.reset))) ∧
    (after .buildPing (after .clr (after (.constructPing 0x1234) State.reset))).isOk := by
  refine ⟨by decide, rfl, rfl, ?_, ?_, rfl, 60, by decide⟩
  · intro i hi
    rw [List.mem_singleton] at hi
    subst hi
    exact ⟨fun w h => (by cases h), id⟩
  · intro before rest h
    have hm : Instr.buildPing ∈ [Instr.clr] := by rw [h]; simp
    simp at hm

/-- Both clauses at the least SCRATCH_CAP and a PAY_CAP the padded bytes just fill. -/
theorem witness_PseudoInstructionsLoadTheirBytes :
    ((∀ ch ∈ ['8', '.', '8'], ch.toNat < 128) ∧ ['8', '.', '8'].length ≤ fullState.params.scratchCap) ∧
    (fullState.valid .ping = true ∧ payBuf .ping = some .pingPay ∧ [(1 : Byte)].length ≤ fullState.params.scratchCap ∧
      (padPayload .ping [1]).length ≤ fullState.params.payCap) := by
  refine ⟨⟨?_, by decide⟩, by decide⟩
  intro ch h
  simp only [List.mem_cons, List.not_mem_nil, or_false] at h
  rcases h with rfl | rfl | rfl <;> decide

/-- OUT empty before a build, and OUT with a verifying header before a step that keeps it. -/
theorem witness_StepKeepsOutVerifying :
    ((shown ipState 0x11000000 20).outVerifies ∧
      step (shown ipState 0x11000000 20) = .next (stepped (shown ipState 0x11000000 20))) ∧
    ((shown (after (.buildIp 20) ipState) 0x30000000 0).outVerifies ∧
      (shown (after (.buildIp 20) ipState) 0x30000000 0).mem.out ≠ [] ∧
      step (shown (after (.buildIp 20) ipState) 0x30000000 0) =
        .next (stepped (shown (after (.buildIp 20) ipState) 0x30000000 0))) :=
  ⟨⟨.inl rfl, rfl⟩, .inr (by decide), by decide, rfl⟩

end Sys2Proof.Tests
end

section
/-! ### How a command ends

`Succeeds` lists, command by command, when a command is answered OK, with which result, and in which state its effects
leave the machine; `exec_ends` says that otherwise it faults and changes nothing.  Every later proof about all commands
splits on `Succeeds` and unfolds no meaning. -/

namespace Sys2Proof.Machine

/-- `Succeeds s i v u`: in state `s` command `i` is answered OK with result `v`, and `u` is the state its effects leave
(the response not yet written). -/
inductive Succeeds (s : State) : Instr → Word → State → Prop
  | csum : Succeeds s .csum ((ocsum s.mem.scratch).setWidth 32) s
  | constructIp (a) (legal : isProtocolNumber a = true) :
      Succeeds s (.constructIp a) 0 { s with ip := some (ipInit s.params (a.setWidth 8)) }
  | constructTcp (a) :
      Succeeds s (.constructTcp a) 0
        ({ s with tcp := some { ip := ipInit s.params 6, tcp := tcpInit a } }.setBuf .tcpPay [])
  | constructIcmp (a) (legal : isIcmpType a = true) :
      Succeeds s (.constructIcmp a) 0
        ({ s with icmp := some { ip := ipInit s.params 1, icmp := icmpInit (a.setWidth 8) 0 } }.setBuf .icmpPay [])
  | constructPing (a) (legal : a.toNat < 2 ^ 16) :
      Succeeds s (.constructPing a) 0
        ({ s with
            ping := some { ip := ipInit s.params 1, icmp := icmpInit 8 (a.setWidth 16 ++ (0 : BitVec 16)) } }.setBuf
          .pingPay s.params.pingDefaultPayload)
  | buildIp (len b) (bank : s.ip = some b) (payFits : len.toNat ≤ 0xFFFF)
      (totalFits : ipTotal b len.toNat ≤ 0xFFFF) :
      Succeeds s (.buildIp len) 20
        ({ s with ip := some (builtIp b len.toNat) }.setBuf .out (wireIp (emittedIp b len.toNat)))
  | buildTcp (x) (bank : s.tcp = some x) (noOptions : x.tcp.options = 0)
      (segFits : segLen x.tcp s.mem.tcpPay.length ≤ 0xFFFF) (payFits : 20 + s.mem.tcpPay.length ≤ 0xFFFF)
      (totalFits : ipTotal x.ip (20 + s.mem.tcpPay.length) ≤ 0xFFFF) :
      Succeeds s .buildTcp (lengthWord (40 + s.mem.tcpPay.length))
        ({ s with
            tcp := some
              { ip := builtIp x.ip (20 + s.mem.tcpPay.length), tcp := builtTcp x s.mem.tcpPay } }.setBuf .out
          (wireIp (emittedIp x.ip (20 + s.mem.tcpPay.length)) ++ wireTcp (builtTcp x s.mem.tcpPay) ++ s.mem.tcpPay))
  | buildIcmp (x) (bank : s.icmp = some x) (payFits : 8 + s.mem.icmpPay.length ≤ 0xFFFF)
      (totalFits : ipTotal x.ip (8 + s.mem.icmpPay.length) ≤ 0xFFFF) :
      Succeeds s .buildIcmp (lengthWord (28 + s.mem.icmpPay.length))
        ({ s with
            icmp := some
              { ip := builtIp x.ip (8 + s.mem.icmpPay.length), icmp := builtIcmp x.icmp s.mem.icmpPay } }.setBuf .out
          (wireIp (emittedIp x.ip (8 + s.mem.icmpPay.length)) ++
            (wireIcmp (builtIcmp x.icmp s.mem.icmpPay) ++ s.mem.icmpPay)))
  | buildPing (x m) (bank : s.ping = some x) (payFits : 8 + s.mem.pingPay.length ≤ 0xFFFF)
      (totalFits : ipTotal x.ip (8 + s.mem.pingPay.length) ≤ 0xFFFF)
      (next : m = { x.icmp with option := nextEcho x.icmp.option }) :
      Succeeds s .buildPing (lengthWord (28 + s.mem.pingPay.length))
        ({ s with
            ping := some
              { ip := builtIp x.ip (8 + s.mem.pingPay.length), icmp := builtIcmp m s.mem.pingPay } }.setBuf .out
          (wireIp (emittedIp x.ip (8 + s.mem.pingPay.length)) ++
            (wireIcmp (builtIcmp m s.mem.pingPay) ++ s.mem.pingPay)))
  | setSrc (c a) (valid : s.valid c = true) (text : parseQuad s.mem.scratch = some a) :
      Succeeds s (.setSrc c) a (s.mapIpBank c fun b => { b with src := a })
  | setDst (c a) (valid : s.valid c = true) (text : parseQuad s.mem.scratch = some a) :
      Succeeds s (.setDst c) a (s.mapIpBank c fun b => { b with dst := a })
  | setSport (a) (valid : s.valid .tcp = true) (fit : a.toNat < 2 ^ 16) :
      Succeeds s (.setSport a) 0 (s.mapTcpBank fun b => { b with sport := a.setWidth 16 })
  | setDport (a) (valid : s.valid .tcp = true) (fit : a.toNat < 2 ^ 16) :
      Succeeds s (.setDport a) 0 (s.mapTcpBank fun b => { b with dport := a.setWidth 16 })
  | setPay (c b) (buf : payBuf c = some b) (valid : s.valid c = true)
      (fit : (padPayload c s.mem.scratch).length ≤ s.params.payCap) :
      Succeeds s (.setPay c) (lengthWord (padPayload c s.mem.scratch).length)
        (s.setBuf b (padPayload c s.mem.scratch))
  | rdf (c r v) (existing : r.existsIn c = true) (value : s.readField c r = some v) : Succeeds s (.rdf c r) v s
  | wrf (c r v) (writable : r.writableIn c = true) (valid : s.valid c = true) (fit : v.toNat < 2 ^ r.width) :
      Succeeds s (.wrf c r v) 0 (s.writeField c r v)
  | clr : Succeeds s .clr 0 (s.setBuf .scratch [])
  | push (a) (byte : a.toNat < 2 ^ 8) (room : s.mem.scratch.length < s.params.scratchCap) :
      Succeeds s (.push a) (lengthWord (s.mem.scratch.length + 1))
        (s.setBuf .scratch (s.mem.scratch ++ [a.setWidth 8]))
  | ldb (b a v) (value : s.mem.read b a.toNat = some v) : Succeeds s (.ldb b a) (v.setWidth 32) s
  | getLen (b) : Succeeds s (.getLen b) (lengthWord (s.mem.buf b).length) s

/-- The two ways a command ends: with a fault that changes nothing, or with OK after its effects. -/
def Ends (i : Instr) (s : State) (o : Host.Outcome State Fault Refusal) : Prop :=
  (∃ e, e ≠ .ok ∧ o = .next (faulted s e)) ∨
  ∃ v u, Succeeds s i v u ∧ o = .next { u with rsp := some { status := .ok, result := v } }

theorem ends_raise {i : Instr} {s : State} {e : Status} (h : e ≠ .ok) : Ends i s (raise e s) :=
  .inl ⟨e, h, raise_eq e s⟩

theorem Succeeds.ends {i : Instr} {s u : State} {v : Word} (h : Succeeds s i v u) : Ends i s (respond v u) :=
  .inr ⟨v, u, h, respond_eq v u⟩

theorem fits_eq_true_iff (w : Nat) (a : Word) : fits w a = true ↔ a.toNat < 2 ^ w := by
  simp [fits]

@[simp] theorem wireIp_length (b : IpBank) : (wireIp b).length = 20 := rfl
@[simp] theorem wireTcp_length (b : TcpBank) : (wireTcp b).length = 20 := rfl
@[simp] theorem wireIcmp_length (b : IcmpBank) : (wireIcmp b).length = 8 := rfl

/-! #### Constructions -/

theorem execConstructIp_ends (a : Word) (s : State) : Ends (.constructIp a) s (execConstructIp a s) := by
  unfold execConstructIp
  split
  next legal => exact (Succeeds.constructIp a legal).ends
  next => exact ends_raise (by decide)

theorem execConstructIcmp_ends (a : Word) (s : State) : Ends (.constructIcmp a) s (execConstructIcmp a s) := by
  unfold execConstructIcmp
  split
  next legal => exact (Succeeds.constructIcmp a legal).ends
  next => exact ends_raise (by decide)

theorem execConstructPing_ends (a : Word) (s : State) : Ends (.constructPing a) s (execConstructPing a s) := by
  unfold execConstructPing
  split
  next legal => exact (Succeeds.constructPing a ((fits_eq_true_iff 16 a).1 legal)).ends
  next => exact ends_raise (by decide)

/-! #### Builds -/

/-- A status the IP checks answer is a fault. -/
theorem ne_ok_of_ipPrecheck {b : IpBank} {n : Nat} {e : Status} (h : ipPrecheck b n = some e) : e ≠ .ok := by
  obtain ⟨rfl, -⟩ := ipPrecheck_some b n e h
  decide

/-- A status the checks of BUILD.TCP answer is a fault. -/
theorem ne_ok_of_tcpPrecheck {x : TcpContext} {n : Nat} {e : Status} (h : tcpPrecheck x n = some e) : e ≠ .ok := by
  obtain ⟨-, h'⟩ | ⟨-, -, h'⟩ | ⟨-, -, h'⟩ := tcpPrecheck_cases x n <;> rw [h'] at h
  · cases h; decide
  · cases h; decide
  · exact ne_ok_of_ipPrecheck h

/-- BUILD.TCP passes its checks exactly when there are no options and all three lengths fit (R186). -/
theorem tcpPrecheck_none_iff (x : TcpContext) (n : Nat) :
    tcpPrecheck x n = none ↔
      x.tcp.options = 0 ∧ segLen x.tcp n ≤ 0xFFFF ∧ 20 + n ≤ 0xFFFF ∧ ipTotal x.ip (20 + n) ≤ 0xFFFF := by
  obtain ⟨ho, h⟩ | ⟨ho, hs, h⟩ | ⟨ho, hs, h⟩ := tcpPrecheck_cases x n <;> rw [h]
  · simp only [reduceCtorEq, false_iff]; exact fun h' => ho h'.1
  · simp only [reduceCtorEq, false_iff]; omega
  · rw [ipPrecheck_none_iff]; simp [ho, hs]

theorem execBuildIp_ends (len : Word) (s : State) : Ends (.buildIp len) s (execBuildIp len s) := by
  unfold execBuildIp
  split
  next => exact ends_raise (by decide)
  next b hb =>
    split
    next e he => exact ends_raise (ne_ok_of_ipPrecheck he)
    next hn =>
      obtain ⟨payFits, totalFits⟩ := (ipPrecheck_none_iff b len.toNat).1 hn
      simpa only [ipEmit_eq] using (Succeeds.buildIp len b hb payFits totalFits).ends

theorem execBuildTcp_ends (s : State) : Ends .buildTcp s (execBuildTcp s) := by
  unfold execBuildTcp
  split
  next => exact ends_raise (by decide)
  next x hx =>
    split
    next e he => exact ends_raise (ne_ok_of_tcpPrecheck he)
    next hn =>
      obtain ⟨noOptions, segFits, payFits, totalFits⟩ := (tcpPrecheck_none_iff x _).1 hn
      simpa [tcpBuild_eq x s.mem.tcpPay segFits, ← Nat.add_assoc] using
        (Succeeds.buildTcp x hx noOptions segFits payFits totalFits).ends

theorem execBuildIcmp_ends (s : State) : Ends .buildIcmp s (execBuildIcmp s) := by
  unfold execBuildIcmp
  split
  next => exact ends_raise (by decide)
  next x hx =>
    split
    next e he => exact ends_raise (ne_ok_of_ipPrecheck he)
    next hn =>
      obtain ⟨payFits, totalFits⟩ := (ipPrecheck_none_iff x.ip _).1 hn
      simpa [icmpBuild_eq, ← Nat.add_assoc] using (Succeeds.buildIcmp x hx payFits totalFits).ends

theorem execBuildPing_ends (s : State) : Ends .buildPing s (execBuildPing s) := by
  unfold execBuildPing
  split
  next => exact ends_raise (by decide)
  next x hx =>
    split
    next e he => exact ends_raise (ne_ok_of_ipPrecheck he)
    next hn =>
      obtain ⟨payFits, totalFits⟩ := (ipPrecheck_none_iff x.ip _).1 hn
      simpa [icmpBuild_eq, ← Nat.add_assoc] using (Succeeds.buildPing x _ hx payFits totalFits rfl).ends

/-! #### Setters, fields and buffers -/

theorem setAddress_ends {i : Instr} {c : Ctx} {put : Word → IpBank → IpBank} {s : State}
    (h : ∀ a, s.valid c = true → parseQuad s.mem.scratch = some a → Succeeds s i a (s.mapIpBank c (put a))) :
    Ends i s (setAddress c put s) := by
  obtain ⟨-, he⟩ | ⟨-, -, he⟩ | ⟨a, valid, text, he⟩ := setAddress_cases c put s <;> rw [he]
  · exact ends_raise (e := .notConstructed) (by decide)
  · exact ends_raise (e := .addressFormatError) (by decide)
  · exact (h a valid text).ends

theorem setPort_ends {i : Instr} {a : Word} {put : BitVec 16 → TcpBank → TcpBank} {s : State}
    (h : s.valid .tcp = true → a.toNat < 2 ^ 16 → Succeeds s i 0 (s.mapTcpBank (put (a.setWidth 16)))) :
    Ends i s (setPort a put s) := by
  obtain ⟨-, he⟩ | ⟨-, -, he⟩ | ⟨valid, fit, he⟩ := setPort_cases a put s <;> rw [he]
  · exact ends_raise (e := .notConstructed) (by decide)
  · exact ends_raise (e := .fieldOverflowError) (by decide)
  · exact (h valid fit).ends

theorem execSetPay_ends (c : Ctx) (s : State) : Ends (.setPay c) s (execSetPay c s) := by
  unfold execSetPay
  split
  next => exact ends_raise (by decide)
  next b buf =>
    split
    next valid =>
      split
      next fit => exact (Succeeds.setPay c b buf valid fit).ends
      next => exact ends_raise (by decide)
    next => exact ends_raise (by decide)

theorem execRdf_ends (c : Ctx) (r : Reg) (s : State) : Ends (.rdf c r) s (execRdf c r s) := by
  unfold execRdf
  split
  next existing =>
    split
    next => exact ends_raise (by decide)
    next v value => exact (Succeeds.rdf c r v existing value).ends
  next => exact ends_raise (by decide)

theorem execWrf_ends (c : Ctx) (r : Reg) (v : Word) (s : State) : Ends (.wrf c r v) s (execWrf c r v s) := by
  unfold execWrf
  split
  next writable =>
    split
    next valid =>
      split
      next fit => exact (Succeeds.wrf c r v writable valid ((fits_eq_true_iff _ v).1 fit)).ends
      next => exact ends_raise (by decide)
    next => exact ends_raise (by decide)
  next => exact ends_raise (by decide)

theorem execPush_ends (a : Word) (s : State) : Ends (.push a) s (execPush a s) := by
  unfold execPush
  split
  next byte =>
    split
    next room => exact (Succeeds.push a ((fits_eq_true_iff 8 a).1 byte) room).ends
    next => exact ends_raise (by decide)
  next => exact ends_raise (by decide)

theorem execLdb_ends (b : Buf) (a : Word) (s : State) : Ends (.ldb b a) s (execLdb b a s) := by
  unfold execLdb
  split
  next => exact ends_raise (by decide)
  next v value => exact (Succeeds.ldb b a v value).ends

/-- Every command, in every state, faults and changes nothing, or succeeds. -/
theorem exec_ends (i : Instr) (s : State) : Ends i s (exec i s) := by
  cases i with
  | csum => exact Succeeds.csum.ends
  | constructIp a => exact execConstructIp_ends a s
  | constructTcp a => exact (Succeeds.constructTcp a).ends
  | constructIcmp a => exact execConstructIcmp_ends a s
  | constructPing a => exact execConstructPing_ends a s
  | buildIp len => exact execBuildIp_ends len s
  | buildTcp => exact execBuildTcp_ends s
  | buildIcmp => exact execBuildIcmp_ends s
  | buildPing => exact execBuildPing_ends s
  | setSrc c => exact setAddress_ends fun a valid text => .setSrc c a valid text
  | setDst c => exact setAddress_ends fun a valid text => .setDst c a valid text
  | setSport a => exact setPort_ends (put := fun v b => { b with sport := v }) fun valid fit => .setSport a valid fit
  | setDport a => exact setPort_ends (put := fun v b => { b with dport := v }) fun valid fit => .setDport a valid fit
  | setPay c => exact execSetPay_ends c s
  | rdf c r => exact execRdf_ends c r s
  | wrf c r v => exact execWrf_ends c r v s
  | clr => exact Succeeds.clr.ends
  | push a => exact execPush_ends a s
  | ldb b a => exact execLdb_ends b a s
  | getLen b => exact (Succeeds.getLen b).ends

/-- The state after a command: the state before it with a fault answered, or what `Succeeds` says with OK answered. -/
theorem exec_next_cases {i : Instr} {s t : State} (h : exec i s = .next t) :
    (∃ e, e ≠ .ok ∧ t = faulted s e) ∨
    ∃ v u, Succeeds s i v u ∧ t = { u with rsp := some { status := .ok, result := v } } := by
  obtain ⟨e, he, h'⟩ | ⟨v, u, hs, h'⟩ := exec_ends i s <;> rw [h] at h' <;> cases h'
  · exact .inl ⟨e, he, rfl⟩
  · exact .inr ⟨v, u, hs, rfl⟩

theorem faulted_not_isOk {s : State} {e : Status} (h : e ≠ .ok) : ¬ (faulted s e).isOk := by
  rintro ⟨v, hv⟩
  cases hv
  exact h rfl

/-- What the host's next event does (R258, R280, R284): nothing is left to do; a reset; a response is taken; a command
runs; or an illegal pair of words is refused. -/
theorem step_next_cases {s t : State} (h : step s = .next t) :
    (s.host = [] ∧ t = s) ∨
    (∃ rest, s.host = .reset :: rest ∧ t = s.hardReset rest) ∨
    (∃ rest, s.host = .takeResponse :: rest ∧ t = { s with host := rest, rsp := none }) ∨
    (∃ cmd arg rest i, s.host = .command cmd arg :: rest ∧ decode cmd arg = .ok i ∧
      exec i { s with host := rest, rsp := none } = .next t) ∨
    ∃ cmd arg rest, s.host = .command cmd arg :: rest ∧
      t = faulted { s with host := rest } .illegalCommand := by
  unfold step at h
  split at h
  next hh => cases h; exact .inl ⟨hh, rfl⟩
  next rest hh => cases h; exact .inr (.inl ⟨rest, hh, rfl⟩)
  next rest hh => cases h; exact .inr (.inr (.inl ⟨rest, hh, rfl⟩))
  next cmd arg rest hh =>
    split at h
    next i hd => exact .inr (.inr (.inr (.inl ⟨cmd, arg, rest, i, hh, hd, h⟩)))
    next => cases h; exact .inr (.inr (.inr (.inr ⟨cmd, arg, rest, hh, rfl⟩)))

end Sys2Proof.Machine
end

section
/-! ### What a command leaves of the banks and of the buffers -/

namespace Sys2Proof.Machine

/-! #### Each update of the state, seen through the banks -/

@[simp] theorem ipBank_setBuf (s : State) (b : Buf) (l : List Byte) (c : Ctx) :
    (s.setBuf b l).ipBank c = s.ipBank c := by cases c <;> rfl
@[simp] theorem tcpBank_setBuf (s : State) (b : Buf) (l : List Byte) (c : Ctx) :
    (s.setBuf b l).tcpBank c = s.tcpBank c := by cases c <;> rfl
@[simp] theorem icmpBank_setBuf (s : State) (b : Buf) (l : List Byte) (c : Ctx) :
    (s.setBuf b l).icmpBank c = s.icmpBank c := by cases c <;> rfl

@[simp] theorem ipBank_mapTcpBank (s : State) (f : TcpBank → TcpBank) (c : Ctx) :
    (s.mapTcpBank f).ipBank c = s.ipBank c := by
  cases c <;> simp [State.mapTcpBank, State.ipBank, Function.comp_def]
@[simp] theorem icmpBank_mapTcpBank (s : State) (f : TcpBank → TcpBank) (c : Ctx) :
    (s.mapTcpBank f).icmpBank c = s.icmpBank c := by cases c <;> rfl
@[simp] theorem ipBank_mapIcmpBank (s : State) (c' : Ctx) (f : IcmpBank → IcmpBank) (c : Ctx) :
    (s.mapIcmpBank c' f).ipBank c = s.ipBank c := by
  cases c' <;> cases c <;> simp [State.mapIcmpBank, State.ipBank, Function.comp_def]

theorem ipBank_mapIpBank_same (s : State) (c : Ctx) (f : IpBank → IpBank) :
    (s.mapIpBank c f).ipBank c = (s.ipBank c).map f := by
  cases c <;> simp [State.mapIpBank, State.ipBank, Function.comp_def]
theorem ipBank_mapIpBank_other (s : State) {c c' : Ctx} (f : IpBank → IpBank) (h : c' ≠ c) :
    (s.mapIpBank c f).ipBank c' = s.ipBank c' := by
  cases c <;> cases c' <;> first | rfl | exact absurd rfl h
@[simp] theorem icmpBank_mapIpBank (s : State) (c : Ctx) (f : IpBank → IpBank) (c' : Ctx) :
    (s.mapIpBank c f).icmpBank c' = s.icmpBank c' := by
  cases c <;> cases c' <;> simp [State.mapIpBank, State.icmpBank, Function.comp_def]

@[simp] theorem readField_setBuf (s : State) (b : Buf) (l : List Byte) (c : Ctx) (r : Reg) :
    (s.setBuf b l).readField c r = s.readField c r := by
  cases r <;> simp [State.readField]

/-! #### Replacing one context leaves the registers of every other -/

section ReplaceContext
variable (s : State) {c : Ctx} (r : Reg)

theorem readField_replaceIp_other (x : Option IpBank) (h : c ≠ .ip) :
    { s with ip := x }.readField c r = s.readField c r := by
  cases c with
  | ip => exact absurd rfl h
  | tcp | icmp | ping => cases r <;> rfl
theorem readField_replaceTcp_other (x : Option TcpContext) (h : c ≠ .tcp) :
    { s with tcp := x }.readField c r = s.readField c r := by
  cases c with
  | tcp => exact absurd rfl h
  | ip | icmp | ping => cases r <;> rfl
theorem readField_replaceIcmp_other (x : Option IcmpContext) (h : c ≠ .icmp) :
    { s with icmp := x }.readField c r = s.readField c r := by
  cases c with
  | icmp => exact absurd rfl h
  | ip | tcp | ping => cases r <;> rfl
theorem readField_replacePing_other (x : Option IcmpContext) (h : c ≠ .ping) :
    { s with ping := x }.readField c r = s.readField c r := by
  cases c with
  | ping => exact absurd rfl h
  | ip | tcp | icmp => cases r <;> rfl

/-- Writing a register of `c'` changes no register of another context. -/
theorem readField_writeField_other {c' : Ctx} (r' : Reg) (v : Word) (h : c ≠ c') :
    (s.writeField c' r' v).readField c r = s.readField c r := by
  cases r' with
  | ip r' => exact readField_mapIpBank_other s c' c _ r h
  | tcp r' =>
    cases c' with
    | tcp => exact readField_replaceTcp_other s r _ h
    | ip | icmp | ping => rfl
  | icmp r' =>
    cases c' with
    | icmp => exact readField_replaceIcmp_other s r _ h
    | ping => exact readField_replacePing_other s r _ h
    | ip | tcp => rfl

end ReplaceContext

/-! #### The IP bank of a context -/

/-- The protocol number construction gives a transport context and nothing changes (R37); context IP may hold any. -/
def FixedProto : Ctx → BitVec 8 → Prop
  | .ip, _ => True
  | .tcp, p => p = 6
  | .icmp, p => p = 1
  | .ping, p => p = 1

/-- A change of the IP bank of `c` that leaves what only CONSTRUCT and BUILD may write: `IDENT`, and `PROTO` of a
transport context (R27, R36). -/
def KeepsFixed (c : Ctx) (f : IpBank → IpBank) : Prop :=
  ∀ b, (f b).ident = b.ident ∧ (c ≠ .ip → (f b).proto = b.proto)

/-- What `WRF` may write in an IP bank is neither `IDENT` nor a transport context's `PROTO` (R36). -/
theorem keepsFixed_write {c : Ctx} {r : IpReg} (v : Word) (h : (Reg.ip r).writableIn c = true) :
    KeepsFixed c fun b => b.write r v := by
  intro b
  cases r with
  | ident => simp [Reg.writableIn, Reg.readOnlyIn] at h
  | proto =>
    refine ⟨rfl, fun hc => ?_⟩
    simp [Reg.writableIn, Reg.readOnlyIn, hc] at h
  | _ => exact ⟨rfl, fun _ => rfl⟩

/-- `IpChange i c s u`: how command `i`, taking the machine from `s` to `u`, changes the IP bank of `c`. -/
inductive IpChange (i : Instr) (c : Ctx) (s u : State) : Prop
  | constructed (p) (constructs : i.constructs c) (proto : FixedProto c p)
      (after : u.ipBank c = some (ipInit s.params p))
  | built (b n) (builds : i.builds c) (before : s.ipBank c = some b) (after : u.ipBank c = some (builtIp b n))
  | kept (f) (notConstructs : ¬ i.constructs c) (notBuilds : ¬ i.builds c) (fixed : KeepsFixed c f)
      (after : u.ipBank c = (s.ipBank c).map f)

theorem IpChange.of_eq {i : Instr} {c : Ctx} {s u : State} (hc : ¬ i.constructs c) (hb : ¬ i.builds c)
    (h : u.ipBank c = s.ipBank c) : IpChange i c s u :=
  .kept id hc hb (fun _ => ⟨rfl, fun _ => rfl⟩) (by simp [h])

/-- A command that rewrites the IP bank of `c'` alone, by a change that keeps the fixed registers. -/
theorem IpChange.of_mapIpBank {i : Instr} (c : Ctx) {c' : Ctx} (s : State) {f : IpBank → IpBank}
    (hc : ¬ i.constructs c) (hb : ¬ i.builds c) (hf : KeepsFixed c' f) : IpChange i c s (s.mapIpBank c' f) := by
  by_cases h : c = c'
  · subst h
    exact .kept f hc hb hf (ipBank_mapIpBank_same s c f)
  · exact .of_eq hc hb (ipBank_mapIpBank_other s f h)

/-- CONSTRUCT and BUILD replace the IP bank of their own context; `WRF` and the address setters keep its fixed
registers; nothing else touches an IP bank. -/
theorem Succeeds.ipChange {i : Instr} {s u : State} {v : Word} (h : Succeeds s i v u) (c : Ctx) :
    IpChange i c s u := by
  cases h with
  | csum | rdf | ldb | getLen => exact .of_eq id id rfl
  | clr | push | setPay => exact .of_eq id id (ipBank_setBuf ..)
  | setSport | setDport => exact .of_eq id id (ipBank_mapTcpBank ..)
  | setSrc | setDst => exact .of_mapIpBank c s id id fun _ => ⟨rfl, fun _ => rfl⟩
  | wrf c' r v writable =>
    cases r with
    | ip r => exact .of_mapIpBank c s id id (keepsFixed_write v writable)
    | tcp r =>
      cases c' with
      | tcp => exact .of_eq id id (ipBank_mapTcpBank ..)
      | ip | icmp | ping => exact .of_eq id id rfl
    | icmp r => exact .of_eq id id (ipBank_mapIcmpBank ..)
  | constructIp a =>
    cases c with
    | ip => exact .constructed _ rfl trivial rfl
    | tcp | icmp | ping => exact .of_eq nofun id rfl
  | constructTcp a =>
    cases c with
    | tcp => exact .constructed 6 rfl rfl rfl
    | ip | icmp | ping => exact .of_eq nofun id rfl
  | constructIcmp a =>
    cases c with
    | icmp => exact .constructed 1 rfl rfl rfl
    | ip | tcp | ping => exact .of_eq nofun id rfl
  | constructPing a =>
    cases c with
    | ping => exact .constructed 1 rfl rfl rfl
    | ip | tcp | icmp => exact .of_eq nofun id rfl
  | buildIp len b bank =>
    cases c with
    | ip => exact .built b _ rfl bank rfl
    | tcp | icmp | ping => exact .of_eq id nofun rfl
  | buildTcp x bank =>
    cases c with
    | tcp => exact .built x.ip _ rfl (by simp [State.ipBank, bank]) rfl
    | ip | icmp | ping => exact .of_eq id nofun rfl
  | buildIcmp x bank =>
    cases c with
    | icmp => exact .built x.ip _ rfl (by simp [State.ipBank, bank]) rfl
    | ip | tcp | ping => exact .of_eq id nofun rfl
  | buildPing x m bank =>
    cases c with
    | ping => exact .built x.ip _ rfl (by simp [State.ipBank, bank]) rfl
    | ip | tcp | icmp => exact .of_eq id nofun rfl

/-! #### Registers of other contexts -/

/-- A command changes no register of a context it does not name (R37). -/
theorem Succeeds.readField_other {i : Instr} {s u : State} {v : Word} (h : Succeeds s i v u) {c : Ctx}
    (hc : i.context ≠ some c) (r : Reg) : u.readField c r = s.readField c r := by
  have other {c' : Ctx} (hi : i.context = some c') : c ≠ c' := fun h => hc (h ▸ hi)
  cases h with
  | csum | rdf | ldb | getLen => rfl
  | clr | push | setPay => exact readField_setBuf ..
  | setSrc | setDst => exact readField_mapIpBank_other s _ c _ r (other rfl)
  | setSport | setDport => exact readField_replaceTcp_other s r _ (other rfl)
  | wrf => exact readField_writeField_other s r _ _ (other rfl)
  | constructIp => exact readField_replaceIp_other s r _ (other rfl)
  | buildIp => rw [readField_setBuf]; exact readField_replaceIp_other s r _ (other rfl)
  | constructTcp | buildTcp => rw [readField_setBuf]; exact readField_replaceTcp_other s r _ (other rfl)
  | constructIcmp | buildIcmp => rw [readField_setBuf]; exact readField_replaceIcmp_other s r _ (other rfl)
  | constructPing | buildPing => rw [readField_setBuf]; exact readField_replacePing_other s r _ (other rfl)

/-! #### Ping's TYPE -/

/-- What `WRF` may write in the ICMP bank of context PING is not `TYPE` (R34, R36). -/
theorem icmpType_write_of_writable {r : IcmpReg} (b : IcmpBank) (v : Word) (h : (Reg.icmp r).writableIn .ping = true) :
    (b.write r v).icmpType = b.icmpType := by
  cases r with
  | icmpType => exact absurd h (by decide)
  | _ => rfl

/-- Ping's `TYPE` is 8 after CONSTRUCT.PING and otherwise as before. -/
theorem Succeeds.pingType {i : Instr} {s u : State} {v : Word} (h : Succeeds s i v u) {b' : IcmpBank}
    (hb : u.icmpBank .ping = some b') :
    b'.icmpType = 8 ∨ ∃ b, s.icmpBank .ping = some b ∧ b'.icmpType = b.icmpType := by
  cases h with
  | csum | rdf | ldb | getLen | clr | push | setPay | setSport | setDport | constructIp | constructTcp
  | constructIcmp | buildIp | buildTcp | buildIcmp => exact .inr ⟨b', hb, rfl⟩
  | setSrc | setDst => exact .inr ⟨b', by simpa using hb, rfl⟩
  | constructPing => cases hb; exact .inl rfl
  | buildPing x m bank payFits totalFits next =>
    cases hb
    exact .inr ⟨x.icmp, by simp [State.icmpBank, bank], by rw [next]; rfl⟩
  | wrf c r v writable =>
    cases r with
    | ip r => exact .inr ⟨b', by simpa [State.writeField] using hb, rfl⟩
    | tcp r => cases c <;> exact .inr ⟨b', hb, rfl⟩
    | icmp r =>
      cases c with
      | ip | tcp | icmp => exact .inr ⟨b', hb, rfl⟩
      | ping =>
        simp only [State.icmpBank, State.writeField, State.mapIcmpBank, Option.map_map, Option.map_eq_some_iff,
          Function.comp_apply] at hb
        obtain ⟨x, hx, rfl⟩ := hb
        exact .inr ⟨x.icmp, by simp [State.icmpBank, hx], icmpType_write_of_writable x.icmp v writable⟩

/-! #### Inputs and buffers -/

/-- A command changes neither the parameters nor what the host does next. -/
theorem Succeeds.sameInputs {i : Instr} {s u : State} {v : Word} (h : Succeeds s i v u) : sameInputs s u := by
  cases h with
  | setSrc | setDst => exact ⟨mapIpBank_params .., mapIpBank_host ..⟩
  | wrf => exact ⟨writeField_params .., writeField_host ..⟩
  | _ => exact ⟨rfl, rfl⟩

/-- A payload buffer is not OUT, has the capacity PAY_CAP, and is PING_PAY for context PING only (R40, R120). -/
theorem payBuf_some {c : Ctx} {b : Buf} (h : payBuf c = some b) (p : Params) :
    b ≠ .out ∧ capOf p b = p.payCap ∧ (b = .pingPay → c = .ping) := by
  cases c <;> cases h <;> simp [capOf]

/-- `MemChange i s u`: how command `i`, taking the machine from `s` to `u`, changes the buffers: not at all, one buffer
other than OUT within its form (R40, R232), or OUT by a BUILD, to a header and what follows it. -/
inductive MemChange (i : Instr) (s u : State) : Prop
  | kept (after : u.mem = s.mem)
  | wrote (b l) (notOut : b ≠ .out)
      (form : s.params.wf → l.length ≤ capOf s.params b ∧ (b = .pingPay → l.length % 2 = 0))
      (after : u.mem = s.mem.setBuf b l)
  | emitted (c b n rest) (builds : i.builds c) (bank : s.ipBank c = some b) (fit : rest.length ≤ 0xFFFF)
      (after : u.mem = s.mem.setBuf .out (wireIp (emittedIp b n) ++ rest))

theorem Succeeds.memChange {i : Instr} {s u : State} {v : Word} (h : Succeeds s i v u) : MemChange i s u := by
  cases h with
  | csum | rdf | ldb | getLen | setSport | setDport | constructIp => exact .kept rfl
  | setSrc | setDst => exact .kept (mapIpBank_mem ..)
  | wrf => exact .kept (writeField_mem ..)
  | clr => exact .wrote .scratch [] nofun (fun _ => ⟨Nat.zero_le _, nofun⟩) rfl
  | push a byte room => exact .wrote .scratch _ nofun (fun _ => ⟨by simpa [capOf] using room, nofun⟩) rfl
  | setPay c b buf valid fit =>
    obtain ⟨notOut, cap, ping⟩ := payBuf_some buf s.params
    refine .wrote b _ notOut (fun _ => ⟨by rwa [cap], fun hb => ?_⟩) rfl
    rw [ping hb]
    exact padPayload_ping_even _
  | constructTcp => exact .wrote .tcpPay [] nofun (fun _ => ⟨Nat.zero_le _, nofun⟩) rfl
  | constructIcmp => exact .wrote .icmpPay [] nofun (fun _ => ⟨Nat.zero_le _, nofun⟩) rfl
  | constructPing =>
    exact .wrote .pingPay _ nofun (fun ⟨even, le, _⟩ => ⟨le, fun _ => even⟩) rfl
  | buildIp len b bank => exact .emitted .ip b len.toNat [] rfl bank (Nat.zero_le _) (by simp)
  | buildTcp x bank noOptions segFits payFits =>
    exact .emitted .tcp x.ip _ (wireTcp (builtTcp x s.mem.tcpPay) ++ s.mem.tcpPay) rfl
      (by simp [State.ipBank, bank]) (by simpa using payFits) (by rw [← List.append_assoc]; rfl)
  | buildIcmp x bank payFits =>
    exact .emitted .icmp x.ip _ _ rfl (by simp [State.ipBank, bank]) (by simpa using payFits) rfl
  | buildPing x m bank payFits =>
    exact .emitted .ping x.ip _ _ rfl (by simp [State.ipBank, bank]) (by simpa using payFits) rfl

end Sys2Proof.Machine
end

section
/-! ### The invariant (O20, O21) -/

namespace Sys2Proof.Machine

/-- The invariant does not speak of the ports: what the host does next, and the response that stands. -/
theorem State.Inv.ports {s : State} (h : s.Inv) (host : List HostEvent) (rsp : Option Response) :
    State.Inv { s with host := host, rsp := rsp } :=
  ⟨h.params, h.mem, h.out, h.ident, h.protoTcp, h.protoIcmp, h.protoPing, h.pingType⟩

/-- Where every buffer is empty and no context is constructed, the invariant asks for the parameters only. -/
theorem inv_of_nothing_held {s : State} (hp : s.params.wf) (hmem : s.mem = Memory.empty)
    (hip : ∀ c, s.ipBank c = none) (hicmp : s.icmpBank .ping = none) : s.Inv where
  params := hp
  mem := hmem ▸ empty_wf s.params
  out := by simp [hmem, Memory.empty]
  ident := by simp [hip]
  protoTcp := by simp [hip]
  protoIcmp := by simp [hip]
  protoPing := by simp [hip]
  pingType := by simp [hicmp]

theorem default_wf : Params.default.wf := by decide

/-- The invariant's clauses on `PROTO`, as one (R37). -/
theorem State.Inv.fixedProto {s : State} (h : s.Inv) {c : Ctx} {b : IpBank} (hb : s.ipBank c = some b) :
    FixedProto c b.proto := by
  cases c with
  | ip => trivial
  | tcp => exact h.protoTcp b hb
  | icmp => exact h.protoIcmp b hb
  | ping => exact h.protoPing b hb

/-- What the builds leave in `IDENT` is never 0 (R155). -/
theorem builtIp_ident (b : IpBank) (n : Nat) : (builtIp b n).ident = succId b.ident :=
  (succId_eq b.ident).symm

theorem builtIp_proto (b : IpBank) (n : Nat) : (builtIp b n).proto = b.proto := rfl

/-- A change of a context's IP bank keeps `IDENT` from 0 and `PROTO` as construction left it (R27, R37). -/
theorem IpChange.keeps {i : Instr} {c : Ctx} {s u : State} (h : IpChange i c s u) (hs : s.Inv) {b' : IpBank}
    (hb' : u.ipBank c = some b') : b'.ident ≠ 0 ∧ FixedProto c b'.proto := by
  cases h with
  | constructed p constructs proto after =>
    rw [after] at hb'; cases hb'
    exact ⟨(by decide : (1 : BitVec 16) ≠ 0), proto⟩
  | built b n builds before after =>
    rw [after] at hb'; cases hb'
    rw [builtIp_ident, builtIp_proto]
    exact ⟨succId_ne_zero b.ident, hs.fixedProto before⟩
  | kept f notConstructs notBuilds fixed after =>
    rw [after] at hb'
    obtain ⟨b, hb, rfl⟩ := Option.map_eq_some_iff.1 hb'
    obtain ⟨ident, proto⟩ := fixed b
    refine ⟨ident ▸ hs.ident c b hb, ?_⟩
    cases c with
    | ip => trivial
    | tcp | icmp | ping => rw [proto nofun]; exact hs.fixedProto hb

/-- A change of the buffers keeps their forms and capacities (R40, R232). -/
theorem MemChange.keeps_wf {i : Instr} {s u : State} (h : MemChange i s u) (hs : s.Inv) : u.mem.wf s.params := by
  cases h with
  | kept after => exact after ▸ hs.mem
  | wrote b l notOut form after =>
    obtain ⟨cap, even⟩ := form hs.params
    exact after ▸ setBuf_wf _ _ b l hs.mem cap even
  | emitted c b n rest builds bank fit after =>
    obtain ⟨-, -, -, -, -, outCap⟩ := hs.params
    refine after ▸ setBuf_wf _ _ .out _ hs.mem ?_ nofun
    simp only [List.length_append, wireIp_length, capOf]
    omega

/-- A change of the buffers leaves OUT empty, or with at least a header and at most 65555 bytes (R153, R154). -/
theorem MemChange.keeps_out {i : Instr} {s u : State} (h : MemChange i s u) (hs : s.Inv) :
    u.mem.out.length = 0 ∨ 20 ≤ u.mem.out.length ∧ u.mem.out.length ≤ 65555 := by
  cases h with
  | kept after => exact after ▸ hs.out
  | wrote b l notOut form after =>
    have same : u.mem.out = s.mem.out := after ▸ buf_setBuf_other s.mem b .out l notOut.symm
    exact same ▸ hs.out
  | emitted c b n rest builds bank fit after =>
    refine .inr ?_
    simp only [after, setBuf_out, List.length_append, wireIp_length]
    omega

/-- A command that succeeds keeps the invariant. -/
theorem Succeeds.keeps_inv {i : Instr} {s u : State} {v : Word} (h : Succeeds s i v u) (hs : s.Inv) : u.Inv := by
  obtain ⟨sameParams, -⟩ := h.sameInputs
  have bank {c : Ctx} {b : IpBank} (hb : u.ipBank c = some b) := (h.ipChange c).keeps hs hb
  exact {
    params := sameParams ▸ hs.params
    mem := sameParams ▸ h.memChange.keeps_wf hs
    out := h.memChange.keeps_out hs
    ident := fun c b hb => (bank hb).1
    protoTcp := fun b hb => (bank hb).2
    protoIcmp := fun b hb => (bank hb).2
    protoPing := fun b hb => (bank hb).2
    pingType := fun b' hb' => by
      obtain h8 | ⟨b, hb, same⟩ := h.pingType hb'
      · exact h8
      · rw [same]; exact hs.pingType b hb }

/-- A command keeps the invariant, whether it faults or succeeds. -/
theorem exec_keeps_inv {i : Instr} {s t : State} (hs : s.Inv) (h : exec i s = .next t) : t.Inv := by
  obtain ⟨e, -, rfl⟩ | ⟨v, u, hu, rfl⟩ := exec_next_cases h
  · exact hs.ports _ _
  · exact (hu.keeps_inv hs).ports _ _

/-- Settles O21, by cases on the host's event; a command keeps the invariant whichever way it ends. -/
theorem stepKeepsInvariant : Obligations.StepKeepsInvariant := by
  intro s t hs h
  obtain ⟨-, rfl⟩ | ⟨rest, -, rfl⟩ | ⟨rest, -, rfl⟩ | ⟨cmd, arg, rest, i, -, -, hi⟩ | ⟨cmd, arg, rest, -, rfl⟩ :=
    step_next_cases h
  · exact hs
  · exact inv_of_nothing_held hs.params rfl (fun c => by cases c <;> rfl) rfl
  · exact hs.ports _ _
  · exact exec_keeps_inv (hs.ports _ _) hi
  · exact hs.ports _ _

/-- Settles O20: the default parameters meet R4, and nothing is held. -/
theorem resetMeetsInvariant : Obligations.ResetMeetsInvariant :=
  inv_of_nothing_held default_wf rfl (fun c => by cases c <;> rfl) rfl

/-- Settles O57: at reset OUT is empty. -/
theorem resetOutVerifies : Obligations.ResetOutVerifies := .inl rfl

end Sys2Proof.Machine
end

section
/-! ### What stands in the contexts: VALID, IDENT, isolation, widths, reset (O9, O14, O15, O17, O19) -/

namespace Sys2Proof.Machine

/-! #### Isolation of writes -/

/-- Settles O17: a fault changes no register, and a command that succeeds changes none of a context it does not name. -/
theorem contextsAreIsolatedForWrites : Obligations.ContextsAreIsolatedForWrites := by
  intro i s t c r h hc
  obtain ⟨e, -, rfl⟩ | ⟨v, u, hu, rfl⟩ := exec_next_cases h
  · rfl
  · exact hu.readField_other hc r

/-! #### VALID -/

/-- A command leaves VALID as it was, or constructs the context. -/
theorem IpChange.valid {i : Instr} {c : Ctx} {s u : State} (h : IpChange i c s u) :
    u.valid c = s.valid c ∨ i.constructs c ∧ u.valid c = true := by
  rw [← ipBank_isSome, ← ipBank_isSome]
  cases h with
  | constructed p constructs proto after => exact .inr ⟨constructs, by rw [after]; rfl⟩
  | built b n builds before after => exact .inl (by rw [before, after]; rfl)
  | kept f notConstructs notBuilds fixed after => exact .inl (by rw [after, Option.isSome_map])

/-- Of all commands only a successful CONSTRUCT of the context changes its VALID bit, to 1 (R38). -/
theorem exec_valid {i : Instr} {s t : State} (h : exec i s = .next t) (c : Ctx) :
    t.valid c = s.valid c ∨ i.constructs c ∧ t.isOk ∧ t.valid c = true := by
  obtain ⟨e, -, rfl⟩ | ⟨v, u, hu, rfl⟩ := exec_next_cases h
  · exact .inl rfl
  · obtain same | ⟨constructs, valid⟩ := (hu.ipChange c).valid
    · exact .inl same
    · exact .inr ⟨constructs, ⟨v, rfl⟩, valid⟩

/-- What one step does to a VALID bit: nothing, or hardware reset clears it, or a successful CONSTRUCT sets it. -/
theorem step_valid {s t : State} (h : step s = .next t) (c : Ctx) :
    t.valid c = s.valid c ∨
    ((∃ rest, s.host = .reset :: rest) ∧ t.valid c = false) ∨
    (∃ cmd arg rest i, s.host = .command cmd arg :: rest ∧ decode cmd arg = .ok i ∧ i.constructs c ∧ t.isOk) ∧
      t.valid c = true := by
  obtain ⟨-, rfl⟩ | ⟨rest, hh, rfl⟩ | ⟨rest, -, rfl⟩ | ⟨cmd, arg, rest, i, hh, hd, hi⟩ | ⟨cmd, arg, rest, -, rfl⟩ :=
    step_next_cases h
  · exact .inl rfl
  · exact .inr (.inl ⟨⟨rest, hh⟩, by cases c <;> rfl⟩)
  · exact .inl rfl
  · obtain same | ⟨constructs, ok, valid⟩ := exec_valid hi c
    · exact .inl same
    · exact .inr (.inr ⟨⟨cmd, arg, rest, i, hh, hd, constructs, ok⟩, valid⟩)
  · exact .inl rfl

/-- Settles O14, from what one step does to a VALID bit. -/
theorem validSetByConstructClearedByReset : Obligations.ValidSetByConstructClearedByReset := by
  intro s t c h
  obtain same | ⟨reset, clear⟩ | ⟨construct, set⟩ := step_valid h c
  · exact ⟨fun h0 h1 => by simp [h0, h1] at same, fun h1 h0 => by simp [h0, h1] at same⟩
  · exact ⟨fun _ h1 => by simp [h1] at clear, fun _ _ => reset⟩
  · exact ⟨fun _ _ => construct, fun _ h0 => by simp [h0] at set⟩

/-! #### IDENT -/

theorem succId_toNat (v : BitVec 16) : (succId v).toNat = if v.toNat = 0xFFFF then 1 else v.toNat + 1 := by
  have := v.isLt
  rw [succId_eq]
  split
  · rfl
  · rw [BitVec.toNat_ofNat]; omega

theorem Instr.not_builds_of_constructs {i : Instr} {c : Ctx} (h : i.constructs c) : ¬ i.builds c := by
  cases i with
  | constructIp | constructTcp | constructIcmp | constructPing => exact id
  | _ => exact absurd h id

/-- Settles O15: a fault keeps the bank; otherwise the change of the bank is a construction, a build, or one that keeps
`IDENT`. -/
theorem identWrittenByConstructAndBuildOnly : Obligations.IdentWrittenByConstructAndBuildOnly := by
  intro i s t c b b' h hb hb'
  obtain ⟨e, he, rfl⟩ | ⟨v, u, hu, rfl⟩ := exec_next_cases h
  · have notOk := faulted_not_isOk (s := s) he
    cases hb.symm.trans hb'
    exact ⟨fun hc => absurd hc.2 notOk, fun hc => absurd hc.2 notOk, fun _ => rfl⟩
  · have ok : State.isOk { u with rsp := some { status := .ok, result := v } } := ⟨v, rfl⟩
    change u.ipBank c = some b' at hb'
    cases hu.ipChange c with
    | constructed p constructs proto after =>
      cases after.symm.trans hb'
      exact ⟨fun _ => rfl, fun hc => absurd hc.1 (Instr.not_builds_of_constructs constructs),
        fun hn => absurd ⟨.inl constructs, ok⟩ hn⟩
    | built b₀ n builds before after =>
      cases before.symm.trans hb
      cases after.symm.trans hb'
      exact ⟨fun hc => absurd builds (Instr.not_builds_of_constructs hc.1),
        fun _ => by rw [builtIp_ident, succId_toNat], fun hn => absurd ⟨.inr builds, ok⟩ hn⟩
    | kept f notConstructs notBuilds fixed after =>
      rw [after, hb] at hb'
      cases hb'
      exact ⟨fun hc => absurd hc.1 notConstructs, fun hc => absurd hc.1 notBuilds, fun _ => (fixed b).1⟩

/-! #### Widths -/

theorem toNat_setWidth_lt {w : Nat} (x : BitVec w) (n : Nat) : (x.setWidth n).toNat < 2 ^ w := by
  rw [BitVec.toNat_setWidth]
  exact (Nat.mod_le _ _).trans_lt x.isLt

theorem IpBank.read_lt (b : IpBank) (r : IpReg) : (b.read r).toNat < 2 ^ r.width := by
  cases r with
  | src => exact b.src.isLt
  | dst => exact b.dst.isLt
  | _ => exact toNat_setWidth_lt _ 32

theorem TcpBank.read_lt (b : TcpBank) (r : TcpReg) : (b.read r).toNat < 2 ^ r.width := by
  cases r with
  | seq => exact b.seq.isLt
  | acknum => exact b.acknum.isLt
  | options => exact b.options.isLt
  | _ => exact toNat_setWidth_lt _ 32

theorem IcmpBank.read_lt (b : IcmpBank) (r : IcmpReg) : (b.read r).toNat < 2 ^ r.width := by
  cases r with
  | option => exact b.option.isLt
  | _ => exact toNat_setWidth_lt _ 32

/-- Settles O19, by the bank the register stands in. -/
theorem everyRegisterFitsItsWidth : Obligations.EveryRegisterFitsItsWidth := by
  intro s c r v h
  cases r with
  | ip r =>
    obtain ⟨b, -, rfl⟩ := Option.map_eq_some_iff.1 h
    exact b.read_lt r
  | tcp r =>
    obtain ⟨b, -, rfl⟩ := Option.map_eq_some_iff.1 h
    exact b.read_lt r
  | icmp r =>
    obtain ⟨b, -, rfl⟩ := Option.map_eq_some_iff.1 h
    exact b.read_lt r

/-! #### A context that is not constructed -/

theorem readField_eq_none {s : State} {c : Ctx} (h : s.valid c = false) (r : Reg) : s.readField c r = none := by
  have absent := readField_isSome s c r
  rw [h, Bool.and_false] at absent
  simpa using absent

/-- A command that names a context which is not constructed, and does not construct it, answers NotConstructed (R254). -/
theorem exec_of_not_valid {i : Instr} {s : State} {c : Ctx} (hwf : i.wf = true) (hc : i.context = some c)
    (hn : ¬ i.constructs c) (hv : s.valid c = false) : exec i s = .next (faulted s .notConstructed) := by
  cases i with
  | csum | clr | push | ldb | getLen => cases hc
  | constructIp | constructTcp | constructIcmp | constructPing => cases hc; exact absurd rfl hn
  | buildIp =>
    cases hc
    have none : s.ip = none := by simpa [State.valid] using hv
    simp [exec, execBuildIp, none, raise_eq]
  | buildTcp =>
    cases hc
    have none : s.tcp = none := by simpa [State.valid] using hv
    simp [exec, execBuildTcp, none, raise_eq]
  | buildIcmp =>
    cases hc
    have none : s.icmp = none := by simpa [State.valid] using hv
    simp [exec, execBuildIcmp, none, raise_eq]
  | buildPing =>
    cases hc
    have none : s.ping = none := by simpa [State.valid] using hv
    simp [exec, execBuildPing, none, raise_eq]
  | setSrc => cases hc; simp [exec, execSetSrc, setAddress, hv, raise_eq]
  | setDst => cases hc; simp [exec, execSetDst, setAddress, hv, raise_eq]
  | setSport => cases hc; simp [exec, execSetSport, setPort, hv, raise_eq]
  | setDport => cases hc; simp [exec, execSetDport, setPort, hv, raise_eq]
  | setPay =>
    cases hc
    cases c with
    | ip => cases hwf
    | tcp | icmp | ping => simp [exec, execSetPay, payBuf, hv, raise_eq]
  | rdf c r =>
    cases hc
    have existing : r.existsIn c = true := hwf
    simp [exec, execRdf, existing, readField_eq_none hv, raise_eq]
  | wrf c r =>
    cases hc
    have writable : r.writableIn c = true := hwf
    simp [exec, execWrf, writable, hv, raise_eq]

theorem hardReset_valid (s : State) (rest : List HostEvent) (c : Ctx) : (s.hardReset rest).valid c = false := by
  cases c <;> rfl

theorem empty_buf (b : Buf) : Memory.empty.buf b = [] := by cases b <;> rfl

/-- Settles O9: reset leaves no context constructed, and a context that is not constructed has no registers and refuses
every command but its CONSTRUCT. -/
theorem hardResetLeavesNothing : Obligations.HardResetLeavesNothing := by
  refine ⟨fun s rest hh => ⟨s.hardReset rest, by simp only [step, hh], rfl, rfl, hardReset_valid s rest, empty_buf,
    fun c r => readField_eq_none (hardReset_valid s rest c) r,
    fun i c hwf hc hn => exec_of_not_valid hwf hc hn (hardReset_valid s rest c)⟩, ?_, empty_buf⟩
  exact hardReset_valid State.reset State.reset.host

end Sys2Proof.Machine
end

section
/-! ### What a command learns (O18)

Two states that look alike to a command are taken by it to outcomes that look alike: each check it makes reads the view
only, and each of its updates, made on both states, keeps them alike. -/

namespace Sys2Proof.Machine

/-! #### The banks after an update, where `Succeeds` did not need them -/

@[simp] theorem tcpBank_mapIpBank (s : State) (c : Ctx) (f : IpBank → IpBank) (c' : Ctx) :
    (s.mapIpBank c f).tcpBank c' = s.tcpBank c' := by
  cases c <;> cases c' <;> simp [State.mapIpBank, State.tcpBank, Function.comp_def]
@[simp] theorem tcpBank_mapIcmpBank (s : State) (c : Ctx) (f : IcmpBank → IcmpBank) (c' : Ctx) :
    (s.mapIcmpBank c f).tcpBank c' = s.tcpBank c' := by
  cases c <;> cases c' <;> rfl
theorem tcpBank_mapTcpBank (s : State) (f : TcpBank → TcpBank) (c : Ctx) :
    (s.mapTcpBank f).tcpBank c = (s.tcpBank c).map f := by
  cases c <;> simp [State.mapTcpBank, State.tcpBank, Function.comp_def]
theorem icmpBank_mapIcmpBank_same (s : State) (c : Ctx) (f : IcmpBank → IcmpBank) :
    (s.mapIcmpBank c f).icmpBank c = (s.icmpBank c).map f := by
  cases c <;> simp [State.mapIcmpBank, State.icmpBank, Function.comp_def]

/-! #### What the view determines -/

section View
variable {c : Ctx} {s s' : State}

theorem valid_eq_of_sameView (h : sameView c s s') : s.valid c = s'.valid c := by
  obtain ⟨ip, -⟩ := h
  rw [← ipBank_isSome, ← ipBank_isSome, ip]

theorem readField_eq_of_sameView (h : sameView c s s') (r : Reg) : s.readField c r = s'.readField c r := by
  obtain ⟨ip, tcp, icmp, -⟩ := h
  cases r with
  | ip r => simp only [State.readField, ip]
  | tcp r => simp only [State.readField, tcp]
  | icmp r => simp only [State.readField, icmp]

theorem scratch_eq_of_sameView (h : sameView c s s') : s.mem.scratch = s'.mem.scratch := by
  obtain ⟨-, -, -, -, scratch, -⟩ := h
  exact scratch

theorem params_eq_of_sameView (h : sameView c s s') : s.params = s'.params := by
  obtain ⟨-, -, -, -, -, params⟩ := h
  exact params

theorem pay_eq_of_sameView (h : sameView c s s') {b : Buf} (hb : payBuf c = some b) : s.mem.buf b = s'.mem.buf b := by
  obtain ⟨-, -, -, pay, -⟩ := h
  exact pay b hb

/-- A context is its two banks: equal banks, equal optional contexts. -/
theorem option_eq_of_map_eq {α β γ : Type} {f : α → β} {g : α → γ} (inj : ∀ x y, f x = f y → g x = g y → x = y)
    {o o' : Option α} (hf : o.map f = o'.map f) (hg : o.map g = o'.map g) : o = o' := by
  cases o <;> cases o' <;> simp_all
  exact inj _ _ hf hg

theorem ip_eq_of_sameView (h : sameView .ip s s') : s.ip = s'.ip := by
  obtain ⟨ip, -⟩ := h
  exact ip

theorem tcp_eq_of_sameView (h : sameView .tcp s s') : s.tcp = s'.tcp := by
  obtain ⟨ip, tcp, -⟩ := h
  refine option_eq_of_map_eq (fun x y hip htcp => ?_) ip tcp
  cases x; cases y; simp_all

theorem IcmpContext.eq_of_banks (x y : IcmpContext) (hip : x.ip = y.ip) (hicmp : x.icmp = y.icmp) : x = y := by
  cases x; cases y; simp_all

theorem icmp_eq_of_sameView (h : sameView .icmp s s') : s.icmp = s'.icmp := by
  obtain ⟨ip, -, icmp, -⟩ := h
  exact option_eq_of_map_eq IcmpContext.eq_of_banks ip icmp

theorem ping_eq_of_sameView (h : sameView .ping s s') : s.ping = s'.ping := by
  obtain ⟨ip, -, icmp, -⟩ := h
  exact option_eq_of_map_eq IcmpContext.eq_of_banks ip icmp

/-! #### Updates made on both states keep them alike -/

theorem sameView_setBuf (h : sameView c s s') (b : Buf) {l l' : List Byte} (hl : l = l') :
    sameView c (s.setBuf b l) (s'.setBuf b l') := by
  subst hl
  have buf {b' : Buf} (hb : s.mem.buf b' = s'.mem.buf b') :
      (s.mem.setBuf b l).buf b' = (s'.mem.setBuf b l).buf b' := by
    by_cases e : b' = b
    · rw [e, buf_setBuf_same, buf_setBuf_same]
    · rw [buf_setBuf_other _ _ _ _ e, buf_setBuf_other _ _ _ _ e, hb]
  obtain ⟨ip, tcp, icmp, pay, scratch, params⟩ := h
  exact ⟨by simpa using ip, by simpa using tcp, by simpa using icmp, fun b' hb' => buf (pay b' hb'),
    buf (b' := .scratch) scratch, params⟩

theorem sameView_mapIpBank (h : sameView c s s') (f : IpBank → IpBank) :
    sameView c (s.mapIpBank c f) (s'.mapIpBank c f) := by
  obtain ⟨ip, tcp, icmp, pay, scratch, params⟩ := h
  refine ⟨?_, by simpa using tcp, by simpa using icmp, by simpa using pay, by simpa using scratch, by simpa using params⟩
  rw [ipBank_mapIpBank_same, ipBank_mapIpBank_same, ip]

theorem sameView_mapTcpBank (h : sameView c s s') (f : TcpBank → TcpBank) :
    sameView c (s.mapTcpBank f) (s'.mapTcpBank f) := by
  obtain ⟨ip, tcp, icmp, pay, scratch, params⟩ := h
  refine ⟨by simpa using ip, ?_, by simpa using icmp, pay, scratch, params⟩
  rw [tcpBank_mapTcpBank, tcpBank_mapTcpBank, tcp]

theorem sameView_mapIcmpBank (h : sameView c s s') (f : IcmpBank → IcmpBank) :
    sameView c (s.mapIcmpBank c f) (s'.mapIcmpBank c f) := by
  obtain ⟨ip, tcp, icmp, pay, scratch, params⟩ := h
  refine ⟨by simpa using ip, by simpa using tcp, ?_, by simpa using pay, by simpa using scratch, by simpa using params⟩
  rw [icmpBank_mapIcmpBank_same, icmpBank_mapIcmpBank_same, icmp]

theorem sameView_writeField (h : sameView c s s') (r : Reg) (v : Word) :
    sameView c (s.writeField c r v) (s'.writeField c r v) := by
  cases r with
  | ip r => exact sameView_mapIpBank h _
  | tcp r =>
    cases c with
    | tcp => exact sameView_mapTcpBank h _
    | ip | icmp | ping => exact h
  | icmp r => exact sameView_mapIcmpBank h _

theorem sameView_replaceIp (h : sameView .ip s s') {x x' : Option IpBank} (hx : x = x') :
    sameView .ip { s with ip := x } { s' with ip := x' } := by
  subst hx
  obtain ⟨-, tcp, icmp, rest⟩ := h
  exact ⟨rfl, tcp, icmp, rest⟩

theorem sameView_replaceTcp (h : sameView .tcp s s') {x x' : Option TcpContext} (hx : x = x') :
    sameView .tcp { s with tcp := x } { s' with tcp := x' } := by
  subst hx
  obtain ⟨-, -, icmp, rest⟩ := h
  exact ⟨rfl, rfl, icmp, rest⟩

theorem sameView_replaceIcmp (h : sameView .icmp s s') {x x' : Option IcmpContext} (hx : x = x') :
    sameView .icmp { s with icmp := x } { s' with icmp := x' } := by
  subst hx
  obtain ⟨-, tcp, -, rest⟩ := h
  exact ⟨rfl, tcp, rfl, rest⟩

theorem sameView_replacePing (h : sameView .ping s s') {x x' : Option IcmpContext} (hx : x = x') :
    sameView .ping { s with ping := x } { s' with ping := x' } := by
  subst hx
  obtain ⟨-, tcp, -, rest⟩ := h
  exact ⟨rfl, tcp, rfl, rest⟩

end View

/-! #### Outcomes that look alike -/

/-- Two outcomes of command `i` on context `c` look alike: the same answer, states with the same view, and after a
successful BUILD the same OUT. -/
def Alike (c : Ctx) (i : Instr) (o o' : Host.Outcome State Fault Refusal) : Prop :=
  ∃ q u u', o = .next { u with rsp := some q } ∧ o' = .next { u' with rsp := some q } ∧ sameView c u u' ∧
    (i.builds c → q.status = .ok → u.mem.out = u'.mem.out)

section Alike
variable {c : Ctx} {s s' : State} {i : Instr}

theorem alike_raise (h : sameView c s s') {e : Status} (he : e ≠ .ok) : Alike c i (raise e s) (raise e s') :=
  ⟨{ status := e, result := 0 }, s, s', rfl, rfl, h, fun _ ok => absurd ok he⟩

theorem alike_respond (h : sameView c s s') (hi : ¬ i.builds c) (v : Word) :
    Alike c i (respond v s) (respond v s') :=
  ⟨{ status := .ok, result := v }, s, s', rfl, rfl, h, fun hb => absurd hb hi⟩

/-- A build answers with the same bytes in OUT on both sides. -/
theorem alike_emit (h : sameView c s s') (l : List Byte) (v : Word) :
    Alike c i (respond v (s.setBuf .out l)) (respond v (s'.setBuf .out l)) :=
  ⟨{ status := .ok, result := v }, s.setBuf .out l, s'.setBuf .out l, rfl, rfl, sameView_setBuf h .out rfl,
    fun _ _ => rfl⟩

theorem execConstructIp_alike (h : sameView .ip s s') (a : Word) :
    Alike .ip (.constructIp a) (execConstructIp a s) (execConstructIp a s') := by
  have params := params_eq_of_sameView h
  unfold execConstructIp
  split
  · exact alike_respond (i := .constructIp a) (sameView_replaceIp h (by rw [params])) id 0
  · exact alike_raise h (by decide)

theorem execConstructTcp_alike (h : sameView .tcp s s') (a : Word) :
    Alike .tcp (.constructTcp a) (execConstructTcp a s) (execConstructTcp a s') := by
  have params := params_eq_of_sameView h
  unfold execConstructTcp
  exact alike_respond (i := .constructTcp a) (sameView_setBuf (sameView_replaceTcp h (by rw [params])) _ rfl) id 0

theorem execConstructIcmp_alike (h : sameView .icmp s s') (a : Word) :
    Alike .icmp (.constructIcmp a) (execConstructIcmp a s) (execConstructIcmp a s') := by
  have params := params_eq_of_sameView h
  unfold execConstructIcmp
  split
  · exact alike_respond (i := .constructIcmp a) (sameView_setBuf (sameView_replaceIcmp h (by rw [params])) _ rfl) id 0
  · exact alike_raise h (by decide)

theorem execConstructPing_alike (h : sameView .ping s s') (a : Word) :
    Alike .ping (.constructPing a) (execConstructPing a s) (execConstructPing a s') := by
  have params := params_eq_of_sameView h
  unfold execConstructPing
  split
  · exact alike_respond (i := .constructPing a) (sameView_setBuf (sameView_replacePing h (by rw [params])) _
      (congrArg Params.pingDefaultPayload params)) id 0
  · exact alike_raise h (by decide)

theorem execBuildIp_alike (h : sameView .ip s s') (len : Word) :
    Alike .ip (.buildIp len) (execBuildIp len s) (execBuildIp len s') := by
  unfold execBuildIp
  rw [ip_eq_of_sameView h]
  split
  · exact alike_raise h (by decide)
  · split
    next e he => exact alike_raise h (ne_ok_of_ipPrecheck he)
    next => exact alike_emit (sameView_replaceIp h rfl) _ _

theorem execBuildTcp_alike (h : sameView .tcp s s') :
    Alike .tcp .buildTcp (execBuildTcp s) (execBuildTcp s') := by
  have pay : s.mem.tcpPay = s'.mem.tcpPay := pay_eq_of_sameView h rfl
  unfold execBuildTcp
  rw [tcp_eq_of_sameView h, pay]
  split
  · exact alike_raise h (by decide)
  · split
    next e he => exact alike_raise h (ne_ok_of_tcpPrecheck he)
    next => exact alike_emit (sameView_replaceTcp h rfl) _ _

theorem execBuildIcmp_alike (h : sameView .icmp s s') :
    Alike .icmp .buildIcmp (execBuildIcmp s) (execBuildIcmp s') := by
  have pay : s.mem.icmpPay = s'.mem.icmpPay := pay_eq_of_sameView h rfl
  unfold execBuildIcmp
  rw [icmp_eq_of_sameView h, pay]
  split
  · exact alike_raise h (by decide)
  · split
    next e he => exact alike_raise h (ne_ok_of_ipPrecheck he)
    next => exact alike_emit (sameView_replaceIcmp h rfl) _ _

theorem execBuildPing_alike (h : sameView .ping s s') :
    Alike .ping .buildPing (execBuildPing s) (execBuildPing s') := by
  have pay : s.mem.pingPay = s'.mem.pingPay := pay_eq_of_sameView h rfl
  unfold execBuildPing
  rw [ping_eq_of_sameView h, pay]
  split
  · exact alike_raise h (by decide)
  · split
    next e he => exact alike_raise h (ne_ok_of_ipPrecheck he)
    next => exact alike_emit (sameView_replacePing h rfl) _ _

theorem setAddress_alike (h : sameView c s s') (hi : ¬ i.builds c) (put : Word → IpBank → IpBank) :
    Alike c i (setAddress c put s) (setAddress c put s') := by
  unfold setAddress
  rw [valid_eq_of_sameView h, scratch_eq_of_sameView h]
  split
  · split
    · exact alike_raise h (by decide)
    next a _ => exact alike_respond (sameView_mapIpBank h (put a)) hi a
  · exact alike_raise h (by decide)

theorem setPort_alike (h : sameView .tcp s s') (hi : ¬ i.builds .tcp) (port : Word)
    (put : BitVec 16 → TcpBank → TcpBank) : Alike .tcp i (setPort port put s) (setPort port put s') := by
  unfold setPort
  rw [valid_eq_of_sameView h]
  split
  · split
    · exact alike_respond (sameView_mapTcpBank h _) hi 0
    · exact alike_raise h (by decide)
  · exact alike_raise h (by decide)

theorem execSetPay_alike (h : sameView c s s') : Alike c (.setPay c) (execSetPay c s) (execSetPay c s') := by
  unfold execSetPay
  rw [valid_eq_of_sameView h, scratch_eq_of_sameView h, params_eq_of_sameView h]
  split
  · exact alike_raise h (by decide)
  · split
    · split
      · exact alike_respond (sameView_setBuf h _ rfl) id _
      · exact alike_raise h (by decide)
    · exact alike_raise h (by decide)

theorem execRdf_alike (h : sameView c s s') (r : Reg) : Alike c (.rdf c r) (execRdf c r s) (execRdf c r s') := by
  unfold execRdf
  rw [readField_eq_of_sameView h]
  split
  · split
    · exact alike_raise h (by decide)
    next v _ => exact alike_respond h id v
  · exact alike_raise h (by decide)

theorem execWrf_alike (h : sameView c s s') (r : Reg) (v : Word) :
    Alike c (.wrf c r v) (execWrf c r v s) (execWrf c r v s') := by
  unfold execWrf
  rw [valid_eq_of_sameView h]
  split
  · split
    · split
      · exact alike_respond (sameView_writeField h r v) id 0
      · exact alike_raise h (by decide)
    · exact alike_raise h (by decide)
  · exact alike_raise h (by decide)

/-- A command that names `c` takes states that look alike to it to outcomes that look alike. -/
theorem exec_alike (hc : i.context = some c) (h : sameView c s s') : Alike c i (exec i s) (exec i s') := by
  cases i with
  | csum | clr | push | ldb | getLen => cases hc
  | constructIp a => cases hc; exact execConstructIp_alike h a
  | constructTcp a => cases hc; exact execConstructTcp_alike h a
  | constructIcmp a => cases hc; exact execConstructIcmp_alike h a
  | constructPing a => cases hc; exact execConstructPing_alike h a
  | buildIp len => cases hc; exact execBuildIp_alike h len
  | buildTcp => cases hc; exact execBuildTcp_alike h
  | buildIcmp => cases hc; exact execBuildIcmp_alike h
  | buildPing => cases hc; exact execBuildPing_alike h
  | setSrc | setDst => cases hc; exact setAddress_alike h id _
  | setSport port => cases hc; exact setPort_alike (i := .setSport port) h id port fun v b => { b with sport := v }
  | setDport port => cases hc; exact setPort_alike (i := .setDport port) h id port fun v b => { b with dport := v }
  | setPay => cases hc; exact execSetPay_alike h
  | rdf c r => cases hc; exact execRdf_alike h r
  | wrf c r v => cases hc; exact execWrf_alike h r v

end Alike

/-- Settles O18: the two outcomes look alike. -/
theorem contextLearnsNothingOfOthers : Obligations.ContextLearnsNothingOfOthers := by
  intro i c s s' t t' hc h ht ht'
  obtain ⟨q, u, u', hu, hu', view, out⟩ := exec_alike hc h
  cases hu.symm.trans ht
  cases hu'.symm.trans ht'
  refine ⟨rfl, view, fun hb ok => out hb ?_⟩
  obtain ⟨v, hv⟩ := ok
  cases hv
  rfl

end Sys2Proof.Machine
end

section
/-! ### IDENT over a run of builds (O53) -/

namespace Sys2Proof.Machine

/-- A run goes on from the state its first step leaves. -/
theorem run_succ_of_step {M : Host.Core} {s t : M.State} (h : M.step s = .next t) (n : Nat) :
    M.run (n + 1) s = M.run n t := by
  rw [Host.Core.run, h]

/-- Bytes 4 and 5 of a header are the identification (R153). -/
theorem bitsAt_wireIp_ident (b : IpBank) : bitsAt (wireIp b) 32 16 = b.ident.toNat := by
  have := b.ident.isLt
  simp [bitsAt, bytesNat, wireIp, natByte]
  omega

theorem decode_buildIp (len : Word) : decode 0x11000000 len = .ok (.buildIp len) := rfl

theorem emittedIp_ident (b : IpBank) (n : Nat) : (emittedIp b n).ident = b.ident := rfl

theorem ipTotal_builtIp (b : IpBank) (n m : Nat) : ipTotal (builtIp b n) m = ipTotal b m := rfl

/-- A BUILD.IP that passes the checks of R154. -/
theorem exec_buildIp_of_fits {s : State} {b : IpBank} {len : Word} (hb : s.ip = some b) (hlen : len.toNat ≤ 0xFFFF)
    (htotal : ipTotal b len.toNat ≤ 0xFFFF) :
    exec (.buildIp len) s = .next
      { s with
        ip := some (builtIp b len.toNat)
        mem := { s.mem with out := wireIp (emittedIp b len.toNat) }
        rsp := some { status := .ok, result := 20 } } := by
  have passes : ipPrecheck b len.toNat = none := (ipPrecheck_none_iff b _).2 ⟨hlen, htotal⟩
  simp [exec, execBuildIp, hb, passes, ipEmit_eq, respond_eq, State.setBuf]

/-- The same, presented by the host. -/
theorem step_buildIp_of_fits {s : State} {b : IpBank} {len : Word} {rest : List HostEvent}
    (hh : s.host = .command 0x11000000 len :: rest) (hb : s.ip = some b) (hlen : len.toNat ≤ 0xFFFF)
    (htotal : ipTotal b len.toNat ≤ 0xFFFF) :
    ∃ t, step s = .next t ∧ t.host = rest ∧ t.ip = some (builtIp b len.toNat) ∧
      t.mem.out = wireIp (emittedIp b len.toNat) := by
  simp only [step, hh, decode_buildIp]
  exact ⟨_, exec_buildIp_of_fits (s := s.accept rest) hb hlen htotal, rfl, rfl, rfl⟩

/-- `n` builds of context IP move `IDENT` on by `n` along the cycle 1 to 0xFFFF, from wherever it stands; the last of
them emits the value before. -/
theorem run_buildIp_ident (len : Word) (hlen : len.toNat ≤ 0xFFFF) (n : Nat) (s : State) (b : IpBank)
    (hh : s.host = List.replicate n (.command 0x11000000 len)) (hb : s.ip = some b) (hident : 1 ≤ b.ident.toNat)
    (htotal : ipTotal b len.toNat ≤ 0xFFFF) :
    ∃ t b', Host.Core.run Sys2Proof.core n s = .next t ∧ t.ip = some b' ∧
      b'.ident.toNat = (b.ident.toNat - 1 + n) % 0xFFFF + 1 ∧
      (0 < n → bitsAt t.mem.out 32 16 = (b.ident.toNat - 1 + (n - 1)) % 0xFFFF + 1) := by
  have hlt := b.ident.isLt
  induction n generalizing s b with
  | zero => exact ⟨s, b, rfl, hb, by omega, nofun⟩
  | succ n ih =>
    obtain ⟨u, hstep, hrest, hu, hout⟩ := step_buildIp_of_fits hh hb hlen htotal
    have next : (builtIp b len.toNat).ident.toNat = if b.ident.toNat = 0xFFFF then 1 else b.ident.toNat + 1 := by
      rw [builtIp_ident, succId_toNat]
    rw [run_succ_of_step (M := Sys2Proof.core) hstep]
    obtain ⟨t, b', hrun, ht, hident', hlast⟩ := ih u (builtIp b len.toNat) hrest hu (by split at next <;> omega)
      (by rwa [ipTotal_builtIp]) (builtIp b len.toNat).ident.isLt
    refine ⟨t, b', hrun, ht, by split at next <;> omega, fun _ => ?_⟩
    cases n with
    | zero =>
      cases hrun
      rw [hout, bitsAt_wireIp_ident, emittedIp_ident]
      omega
    | succ n =>
      rw [hlast n.succ_pos]
      split at next <;> omega

/-- Settles O53: the cycle entered at 1. -/
theorem identCyclesOverBuilds : Obligations.IdentCyclesOverBuilds := by
  intro n s b len hb hident hlen htotal
  have one : b.ident.toNat = 1 := by rw [hident]; rfl
  obtain ⟨t, b', hrun, ht, hident', hlast⟩ :=
    run_buildIp_ident len hlen n { s with host := List.replicate n (.command 0x11000000 len) } b rfl hb one.ge htotal
  rw [one, Nat.sub_self, Nat.zero_add] at hident' hlast
  exact ⟨t, b', hrun, ht, hident', hlast⟩

end Sys2Proof.Machine
end

section
/-! ### What a command leaves of OUT, of the registers and of the bytes (O16, O43, O44, O45) -/

namespace Sys2Proof.Machine

/-! #### OUT -/

/-- A change of the buffers leaves OUT as it was, or is a BUILD (R73). -/
theorem MemChange.out {i : Instr} {s u : State} (h : MemChange i s u) : u.mem.out = s.mem.out ∨ ∃ c, i.builds c := by
  cases h with
  | kept after => exact .inl (by rw [after])
  | wrote b l notOut form after => exact .inl (after ▸ buf_setBuf_other s.mem b .out l notOut.symm)
  | emitted c b n rest builds bank fit after => exact .inr ⟨c, builds⟩

/-- Of all commands only a successful BUILD writes OUT (R73). -/
theorem exec_out {i : Instr} {s t : State} (h : exec i s = .next t) :
    t.mem.out = s.mem.out ∨ ∃ c, i.builds c ∧ t.isOk := by
  obtain ⟨e, -, rfl⟩ | ⟨v, u, hu, rfl⟩ := exec_next_cases h
  · exact .inl rfl
  · obtain same | ⟨c, builds⟩ := hu.memChange.out
    · exact .inl same
    · exact .inr ⟨c, builds, v, rfl⟩

/-- Settles O16, by cases on the host's event: only a reset and a command can touch OUT, and of the commands a BUILD. -/
theorem outKeptUntilBuildOrReset : Obligations.OutKeptUntilBuildOrReset := by
  intro s t h changed
  obtain ⟨-, rfl⟩ | ⟨rest, hh, rfl⟩ | ⟨rest, -, rfl⟩ | ⟨cmd, arg, rest, i, hh, hd, hi⟩ | ⟨cmd, arg, rest, -, rfl⟩ :=
    step_next_cases h
  · exact absurd rfl changed
  · exact .inl ⟨rest, hh⟩
  · exact absurd rfl changed
  · obtain same | ⟨c, builds, ok⟩ := exec_out hi
    · exact absurd same changed
    · exact .inr ⟨cmd, arg, rest, i, c, hh, hd, builds, ok⟩
  · exact absurd rfl changed

/-! #### From the effects of a command to its frame

A fault changes nothing but the response, so a frame has to be shown of the effects of success alone. -/

/-- A command whose success has no effect changes the response alone. -/
theorem exec_eq_of_no_effect {i : Instr} {s t : State} (h : exec i s = .next t)
    (effect : ∀ v u, Succeeds s i v u → u = s) : t = { s with rsp := t.rsp } := by
  obtain ⟨e, -, rfl⟩ | ⟨v, u, hu, rfl⟩ := exec_next_cases h
  · rfl
  · rw [effect v u hu]

/-- What the effects of a command leave unchanged, the command leaves unchanged however it ends; and no command changes
the parameters or what the host does next. -/
theorem exec_frame {i : Instr} {s t : State} {regs : Ctx → Reg → Prop} {bytes : Buf → Nat → Prop}
    (h : exec i s = .next t)
    (effect : ∀ v u, Succeeds s i v u → sameRegs s u regs ∧ sameBytes s u bytes) :
    sameRegs s t regs ∧ sameBytes s t bytes ∧ sameInputs s t := by
  obtain ⟨e, -, rfl⟩ | ⟨v, u, hu, rfl⟩ := exec_next_cases h
  · exact ⟨fun _ _ _ => rfl, fun _ _ _ => rfl, rfl, rfl⟩
  · obtain ⟨hregs, hbytes⟩ := effect v u hu
    exact ⟨hregs, hbytes, hu.sameInputs⟩

/-- Settles O43: when any of the four succeeds, it leaves the state it found. -/
theorem frameOfReads : Obligations.FrameOfReads := by
  rintro s t c r b a (h | h | h | h) <;> exact exec_eq_of_no_effect h fun v u hu => by cases hu; rfl

/-! #### Writing one register -/

/-- Writing a register of a context changes no other register of that context. -/
theorem readField_writeField_ne (s : State) (c : Ctx) {r r' : Reg} (v : Word) (h : r' ≠ r) :
    (s.writeField c r v).readField c r' = s.readField c r' := by
  cases r with
  | ip r =>
    cases r' with
    | ip r' =>
      have apart (b : IpBank) : (b.write r v).read r' = b.read r' := b.read_write_other r r' v fun e => h (e ▸ rfl)
      simp [State.writeField, State.readField, ipBank_mapIpBank_same, Function.comp_def, apart]
    | tcp r' | icmp r' => simp [State.writeField, State.readField]
  | tcp r =>
    cases c with
    | ip | icmp | ping => rfl
    | tcp =>
      cases r' with
      | tcp r' =>
        have apart (b : TcpBank) : (b.write r v).read r' = b.read r' := b.read_write_other r r' v fun e => h (e ▸ rfl)
        simp [State.writeField, State.readField, tcpBank_mapTcpBank, Function.comp_def, apart]
      | ip r' | icmp r' => simp [State.writeField, State.readField]
  | icmp r =>
    cases r' with
    | icmp r' =>
      have apart (b : IcmpBank) : (b.write r v).read r' = b.read r' := b.read_write_other r r' v fun e => h (e ▸ rfl)
      simp [State.writeField, State.readField, icmpBank_mapIcmpBank_same, Function.comp_def, apart]
    | ip r' | tcp r' => simp [State.writeField, State.readField]

/-- Writing a register changes that register of that context alone, and no byte (R113). -/
theorem writeField_frame (s : State) (c : Ctx) (r : Reg) (v : Word) :
    sameRegs s (s.writeField c r v) (fun c' r' => c' = c ∧ r' = r) ∧
      sameBytes s (s.writeField c r v) (fun _ _ => False) := by
  refine ⟨fun c' r' other => ?_, fun b i _ => by rw [writeField_mem]⟩
  by_cases hc : c' = c
  · subst hc
    exact readField_writeField_ne s c' v fun hr => other ⟨rfl, hr⟩
  · exact readField_writeField_other s r' r v hc

/-- Settles O44: the effect of each setter is that of writing, by its name, the one register it sets. -/
theorem frameOfFieldWriters : Obligations.FrameOfFieldWriters := by
  intro s t
  refine ⟨fun c h => ?_, fun c h => ?_, fun a h => ?_, fun a h => ?_, fun c r v h => ?_⟩
  · exact exec_frame h fun v u hu => by cases hu; exact writeField_frame s c (.ip .src) v
  · exact exec_frame h fun v u hu => by cases hu; exact writeField_frame s c (.ip .dst) v
  · exact exec_frame h fun v u hu => by cases hu; exact writeField_frame s .tcp (.tcp .sport) a
  · exact exec_frame h fun v u hu => by cases hu; exact writeField_frame s .tcp (.tcp .dport) a
  · exact exec_frame h fun w u hu => by cases hu; exact writeField_frame s c r v

/-! #### Writing one buffer -/

/-- Storing a buffer changes no register, and of that buffer the bytes in which the stored list differs. -/
theorem setBuf_frame (s : State) (b : Buf) (l : List Byte) {bytes : Buf → Nat → Prop}
    (stored : ∀ i, ¬ bytes b i → l[i]? = (s.mem.buf b)[i]?) :
    sameRegs s (s.setBuf b l) (fun _ _ => False) ∧ sameBytes s (s.setBuf b l) bytes := by
  refine ⟨fun c r _ => readField_setBuf s b l c r, fun b' i other => ?_⟩
  by_cases hb : b' = b
  · subst hb
    exact (read_setBuf_same s.mem b' l i).trans (stored i other)
  · exact read_setBuf_other s.mem b b' l i hb

/-- Appending one byte changes what stands at the index that was the length alone (R117). -/
theorem getElem?_concat_of_ne (l : List Byte) (x : Byte) {i : Nat} (h : i ≠ l.length) : (l ++ [x])[i]? = l[i]? := by
  obtain lt | gt := Nat.lt_or_gt_of_ne h
  · exact List.getElem?_append_left lt
  · rw [List.getElem?_eq_none (by simpa using gt), List.getElem?_eq_none gt.le]

/-- Settles O45: CLR and SETPAY replace the one buffer they may change, PUSH appends one byte to SCRATCH. -/
theorem frameOfBufferWriters : Obligations.FrameOfBufferWriters := by
  intro s t
  refine ⟨fun h => ?_, fun a h => ?_, fun c h => ?_⟩ <;> refine exec_frame h fun v u hu => ?_
  · cases hu
    exact setBuf_frame s .scratch [] fun i other => absurd rfl other
  · cases hu
    exact setBuf_frame s .scratch _ fun i other => getElem?_concat_of_ne _ _ fun hi => other ⟨rfl, hi⟩
  · cases hu with
    | setPay c b buf => exact setBuf_frame s b _ fun i other => absurd buf other

end Sys2Proof.Machine
end

section
/-! ### Decoding and encoding (O1, O2, O3, O4, O5)

The fields of a `CMD` word and the word of its fields determine each other, and each table of names (R84, R85, R25, R29,
R33) is read back from its own bytes.  Then one lemma per part of the decoder says what it accepts, and one what it
refuses. -/

namespace Sys2Proof

/-! #### The fields of `CMD` (R81) -/

theorem cmdOp_toNat (cmd : Word) : (cmdOp cmd).toNat = cmd.toNat / 2 ^ 24 := by
  have := cmd.isLt
  simp only [cmdOp, BitVec.extractLsb'_toNat, Nat.shiftRight_eq_div_pow]
  omega
theorem cmdUnit_toNat (cmd : Word) : (cmdUnit cmd).toNat = cmd.toNat / 2 ^ 16 % 2 ^ 8 := by
  simp only [cmdUnit, BitVec.extractLsb'_toNat, Nat.shiftRight_eq_div_pow]
theorem cmdSel_toNat (cmd : Word) : (cmdSel cmd).toNat = cmd.toNat / 2 ^ 8 % 2 ^ 8 := by
  simp only [cmdSel, BitVec.extractLsb'_toNat, Nat.shiftRight_eq_div_pow]
theorem cmdZero_toNat (cmd : Word) : (cmdZero cmd).toNat = cmd.toNat % 2 ^ 8 := by
  simp only [cmdZero, BitVec.extractLsb'_toNat, Nat.shiftRight_zero]

/-- The `CMD` word of its fields, as arithmetic. -/
theorem mkCmd_toNat (o : Opcode) (unit sel : Byte) :
    (mkCmd o unit sel).toNat = o.toByte.toNat * 2 ^ 24 + unit.toNat * 2 ^ 16 + sel.toNat * 2 ^ 8 := by
  simp only [mkCmd, Machine.toNat_pack, BitVec.ofNat_eq_ofNat, BitVec.toNat_ofNat]
  omega

section MkCmd
variable (o : Opcode) (unit sel : Byte)
@[simp] theorem cmdOp_mkCmd : cmdOp (mkCmd o unit sel) = o.toByte := by
  apply BitVec.eq_of_toNat_eq; rw [cmdOp_toNat, mkCmd_toNat]; omega
@[simp] theorem cmdUnit_mkCmd : cmdUnit (mkCmd o unit sel) = unit := by
  apply BitVec.eq_of_toNat_eq; rw [cmdUnit_toNat, mkCmd_toNat]; omega
@[simp] theorem cmdSel_mkCmd : cmdSel (mkCmd o unit sel) = sel := by
  apply BitVec.eq_of_toNat_eq; rw [cmdSel_toNat, mkCmd_toNat]; omega
@[simp] theorem cmdZero_mkCmd : cmdZero (mkCmd o unit sel) = 0 := by
  apply BitVec.eq_of_toNat_eq; rw [cmdZero_toNat, mkCmd_toNat]; simp; omega
end MkCmd

/-- A `CMD` word is its four fields (R81): none of its bits is outside them. -/
theorem mkCmd_of_fields {cmd : Word} {o : Opcode} (hop : cmdOp cmd = o.toByte) (hzero : cmdZero cmd = 0) :
    mkCmd o (cmdUnit cmd) (cmdSel cmd) = cmd := by
  apply BitVec.eq_of_toNat_eq
  have low : cmd.toNat % 2 ^ 8 = 0 := by rw [← cmdZero_toNat, hzero]; rfl
  rw [mkCmd_toNat, ← hop, cmdOp_toNat, cmdUnit_toNat, cmdSel_toNat]
  omega

/-! #### The tables of names, read back -/

@[simp] theorem Opcode.ofByte_toByte (o : Opcode) : Opcode.ofByte o.toByte = some o := by cases o <;> rfl
@[simp] theorem Ctx.ofByte_toByte (c : Ctx) : Ctx.ofByte c.toByte = some c := by cases c <;> rfl
@[simp] theorem Buf.ofByte_toByte (b : Buf) : Buf.ofByte b.toByte = some b := by cases b <;> rfl
@[simp] theorem Reg.ofSel_sel (r : Reg) : Reg.ofSel r.sel = some r := by
  rcases r with r | r | r <;> cases r <;> rfl

theorem Opcode.eq_toByte {b : Byte} {o : Opcode} (h : Opcode.ofByte b = some o) : b = o.toByte := by
  unfold Opcode.ofByte at h
  split at h <;> cases h <;> exact BitVec.eq_of_toNat_eq ‹_›
theorem Ctx.eq_toByte {b : Byte} {c : Ctx} (h : Ctx.ofByte b = some c) : b = c.toByte := by
  unfold Ctx.ofByte at h
  split at h <;> cases h <;> exact BitVec.eq_of_toNat_eq ‹_›
theorem Buf.eq_toByte {b : Byte} {buf : Buf} (h : Buf.ofByte b = some buf) : b = buf.toByte := by
  unfold Buf.ofByte at h
  split at h <;> cases h <;> exact BitVec.eq_of_toNat_eq ‹_›
theorem Reg.eq_sel {b : Byte} {r : Reg} (h : Reg.ofSel b = some r) : b = r.sel := by
  unfold Reg.ofSel at h
  split at h <;> cases h <;> exact BitVec.eq_of_toNat_eq ‹_›

/-! #### What each part of the decoder accepts -/

section Accepts
variable {unit sel : Byte} {arg : Word} {i : Instr} {x : Except Illegal Instr}

theorem needSelZero_ok_iff : needSelZero sel x = .ok i ↔ sel = 0 ∧ x = .ok i := by
  unfold needSelZero
  split
  next zero => exact (and_iff_right zero).symm
  next notZero => exact ⟨nofun, fun h => absurd h.1 notZero⟩
theorem needArgZero_ok_iff : needArgZero arg x = .ok i ↔ arg = 0 ∧ x = .ok i := by
  unfold needArgZero
  split
  next zero => exact (and_iff_right zero).symm
  next notZero => exact ⟨nofun, fun h => absurd h.1 notZero⟩

theorem withCtx_toByte (c : Ctx) (k : Ctx → Except Illegal Instr) : withCtx c.toByte k = k c := by
  rw [withCtx, Ctx.ofByte_toByte]
theorem withBuf_toByte (b : Buf) (k : Buf → Except Illegal Instr) : withBuf b.toByte k = k b := by
  rw [withBuf, Buf.ofByte_toByte]
theorem withReg_sel {c : Ctx} {r : Reg} (h : r.existsIn c = true) (k : Reg → Except Illegal Instr) :
    withReg c r.sel k = k r := by
  simp only [withReg, Reg.ofSel_sel, h, if_true]

theorem withCtx_ok_iff {k : Ctx → Except Illegal Instr} :
    withCtx unit k = .ok i ↔ ∃ c : Ctx, unit = c.toByte ∧ k c = .ok i := by
  constructor
  · intro h
    unfold withCtx at h
    split at h
    next c hc => exact ⟨c, Ctx.eq_toByte hc, h⟩
    next => cases h
  · rintro ⟨c, rfl, h⟩
    rw [withCtx_toByte, h]
theorem withBuf_ok_iff {k : Buf → Except Illegal Instr} :
    withBuf unit k = .ok i ↔ ∃ b : Buf, unit = b.toByte ∧ k b = .ok i := by
  constructor
  · intro h
    unfold withBuf at h
    split at h
    next b hb => exact ⟨b, Buf.eq_toByte hb, h⟩
    next => cases h
  · rintro ⟨b, rfl, h⟩
    rw [withBuf_toByte, h]
theorem withReg_ok_iff {c : Ctx} {k : Reg → Except Illegal Instr} :
    withReg c sel k = .ok i ↔ ∃ r : Reg, sel = r.sel ∧ r.existsIn c = true ∧ k r = .ok i := by
  constructor
  · intro h
    unfold withReg at h
    split at h
    next r hr =>
      split at h
      next existing => exact ⟨r, Reg.eq_sel hr, existing, h⟩
      next => cases h
    next => cases h
  · rintro ⟨r, rfl, existing, h⟩
    rw [withReg_sel existing, h]

/-- The rows of one opcode accept well-formed commands only, and each from its own fields and `ARG` (R83, R86). -/
theorem decodeOpcode_ok {o : Opcode} (h : decodeOpcode unit sel arg o = .ok i) :
    i.wf = true ∧ encode i = (mkCmd o unit sel, arg) := by
  cases o <;>
    simp only [decodeOpcode, withCtx_ok_iff, withBuf_ok_iff, withReg_ok_iff, needSelZero_ok_iff, needArgZero_ok_iff,
      ite_eq_iff, reduceCtorEq, and_false, or_false, false_or, Except.ok.injEq] at h
  case csum =>
    obtain ⟨rfl, rfl, rfl, rfl⟩ := h
    exact ⟨rfl, rfl⟩
  case construct =>
    obtain ⟨c, rfl, rfl, h⟩ := h
    cases c <;> cases h <;> exact ⟨rfl, rfl⟩
  case build =>
    obtain ⟨c, rfl, rfl, h⟩ := h
    cases c with
    | ip => cases h; exact ⟨rfl, rfl⟩
    | tcp | icmp | ping =>
      obtain ⟨rfl, h⟩ := needArgZero_ok_iff.1 h
      cases h; exact ⟨rfl, rfl⟩
  case setSrc | setDst | setSport | setDport | push | getLen =>
    obtain ⟨named, rfl, rfl, rfl, rfl⟩ := h
    exact ⟨rfl, rfl⟩
  case setPay =>
    obtain ⟨c, rfl, rfl, notIp, rfl, rfl⟩ := h
    exact ⟨by simpa [Instr.wf] using notIp, rfl⟩
  case rdf =>
    obtain ⟨c, rfl, r, rfl, existing, rfl, rfl⟩ := h
    exact ⟨existing, rfl⟩
  case wrf =>
    obtain ⟨c, rfl, r, rfl, existing, writable, rfl⟩ := h
    exact ⟨by simpa [Instr.wf, Reg.writableIn, existing] using writable, rfl⟩
  case clr =>
    obtain ⟨b, rfl, rfl, rfl, rfl, rfl⟩ := h
    exact ⟨rfl, rfl⟩
  case ldb =>
    obtain ⟨b, rfl, rfl, rfl⟩ := h
    exact ⟨rfl, rfl⟩

end Accepts

/-- A word whose reserved byte is zero and whose opcode is in R84 is decoded by the rows of that opcode. -/
theorem decode_mkCmd (o : Opcode) (unit sel : Byte) (arg : Word) :
    decode (mkCmd o unit sel) arg = decodeOpcode unit sel arg o := by
  simp [decode, decodeFields]

/-- How a pair of words is decoded: the reserved byte is not zero, or the opcode is not in R84, or the rows of one
opcode decide (R81, R84, R88). -/
theorem decode_cases (cmd arg : Word) :
    (cmdZero cmd ≠ 0 ∧ decode cmd arg = .error .reservedBits) ∨
    (Opcode.ofByte (cmdOp cmd) = none ∧ decode cmd arg = .error .reservedOpcode) ∨
    ∃ o unit sel, cmd = mkCmd o unit sel ∧ decode cmd arg = decodeOpcode unit sel arg o := by
  by_cases hz : cmdZero cmd = 0
  · cases ho : Opcode.ofByte (cmdOp cmd) with
    | none => exact .inr (.inl ⟨rfl, by rw [decode, decodeFields, if_pos hz, ho]⟩)
    | some o => exact .inr (.inr ⟨o, _, _, (mkCmd_of_fields (Opcode.eq_toByte ho) hz).symm,
        by rw [decode, decodeFields, if_pos hz, ho]⟩)
  · exact .inl ⟨hz, if_neg hz⟩

/-- Settles O1: the decoder computes on sixteen closed words. -/
theorem writtenOutWordsDecode : Obligations.WrittenOutWordsDecode := by
  unfold Obligations.WrittenOutWordsDecode
  decide

/-- Settles O2: the fields of a `CMD` word and the tables of names are read back, command by command. -/
theorem decodeOfEncodeIsTheCommand : Obligations.DecodeOfEncodeIsTheCommand := by
  intro i hwf
  cases i with
  | csum | constructIp | constructTcp | constructIcmp | constructPing | buildIp | buildTcp | buildIcmp | buildPing
  | setSport | setDport | clr | push => exact decode_mkCmd _ _ _ _
  | setSrc c | setDst c => exact (decode_mkCmd _ _ _ _).trans (withCtx_toByte c _)
  | ldb b | getLen b => exact (decode_mkCmd _ _ _ _).trans (withBuf_toByte b _)
  | setPay c =>
    cases c with
    | ip => cases hwf
    | tcp | icmp | ping => exact decode_mkCmd _ _ _ _
  | rdf c r =>
    exact (decode_mkCmd _ _ _ _).trans ((withCtx_toByte c _).trans (withReg_sel hwf _))
  | wrf c r v =>
    obtain ⟨existing, writable⟩ := (Bool.and_eq_true _ _).mp hwf
    refine (decode_mkCmd _ _ _ _).trans ((withCtx_toByte c _).trans ((withReg_sel existing _).trans ?_))
    exact if_neg (by simpa using writable)

/-- Settles O3: only the rows of an opcode accept, and those accept nothing but their own encoding. -/
theorem acceptedWordsAreTheEncoding : Obligations.AcceptedWordsAreTheEncoding := by
  intro cmd arg i h
  obtain ⟨-, h'⟩ | ⟨-, h'⟩ | ⟨o, unit, sel, rfl, h'⟩ := decode_cases cmd arg
  · cases h'.symm.trans h
  · cases h'.symm.trans h
  · exact decodeOpcode_ok (h'.symm.trans h)

/-! #### The rows of the opcode table (R86) -/

/-- The first word of every encoding selects the row of its mnemonic. -/
theorem encode_selects_row (i : Instr) : Laws.EncodesRow.Statement i := by
  cases i with
  | csum => exact Laws.EncodesRow.csum
  | constructIp a => exact Laws.EncodesRow.constructIp a
  | constructTcp a => exact Laws.EncodesRow.constructTcp a
  | constructIcmp a => exact Laws.EncodesRow.constructIcmp a
  | constructPing a => exact Laws.EncodesRow.constructPing a
  | buildIp a => exact Laws.EncodesRow.buildIp a
  | buildTcp => exact Laws.EncodesRow.buildTcp
  | buildIcmp => exact Laws.EncodesRow.buildIcmp
  | buildPing => exact Laws.EncodesRow.buildPing
  | setSrc c => exact Laws.EncodesRow.setSrc c
  | setDst c => exact Laws.EncodesRow.setDst c
  | setSport a => exact Laws.EncodesRow.setSport a
  | setDport a => exact Laws.EncodesRow.setDport a
  | setPay c => exact Laws.EncodesRow.setPay c
  | rdf c r => exact Laws.EncodesRow.rdf c r
  | wrf c r v => exact Laws.EncodesRow.wrf c r v
  | clr => exact Laws.EncodesRow.clr
  | push a => exact Laws.EncodesRow.push a
  | ldb b a => exact Laws.EncodesRow.ldb b a
  | getLen b => exact Laws.EncodesRow.getLen b

/-- No two rows agree on the bits both of them fix. -/
theorem rows_disjoint : ∀ row ∈ opcodeTable, ∀ other ∈ opcodeTable,
    row.bits &&& other.mask = other.bits &&& row.mask → other = row := by decide

/-- Any word selects at most one row. -/
theorem row_unique {cmd : Word} {row other : OpcodeRow} (hrow : row ∈ opcodeTable) (hother : other ∈ opcodeTable)
    (selects : cmd &&& row.mask = row.bits) (selects' : cmd &&& other.mask = other.bits) : other = row := by
  apply rows_disjoint row hrow other hother
  rw [← selects, ← selects', BitVec.and_assoc, BitVec.and_assoc, BitVec.and_comm row.mask]

/-- Settles O4: an accepted word is an encoding, and no word selects two rows. -/
theorem acceptedWordSelectsItsRowAlone : Obligations.AcceptedWordSelectsItsRowAlone := by
  intro cmd arg i h
  obtain ⟨-, henc⟩ := acceptedWordsAreTheEncoding cmd arg i h
  obtain ⟨-, row, hrow, name, selects⟩ := encode_selects_row i
  rw [henc] at selects
  exact ⟨row, hrow, name, selects, fun other hother selects' => row_unique hrow hother selects selects'⟩

/-! #### What each part of the decoder refuses (R88) -/

/-- The decoder, or a part of it, answers that the words are illegal. -/
def Refused (x : Except Illegal Instr) : Prop := ∃ e, x = .error e

@[simp] theorem refused_error (e : Illegal) : Refused (.error e) := ⟨e, rfl⟩
@[simp] theorem not_refused_ok (i : Instr) : ¬ Refused (.ok i) := nofun

@[simp] theorem refused_needSelZero (sel : Byte) (x : Except Illegal Instr) :
    Refused (needSelZero sel x) ↔ sel.toNat ≠ 0 ∨ Refused x := by
  unfold needSelZero
  split <;> simp_all [BitVec.toNat_eq]
@[simp] theorem refused_needArgZero (arg : Word) (x : Except Illegal Instr) :
    Refused (needArgZero arg x) ↔ arg.toNat ≠ 0 ∨ Refused x := by
  unfold needArgZero
  split <;> simp_all [BitVec.toNat_eq]

/-- A byte that is no opcode is none of R84. -/
theorem Opcode.reserved_of_none {b : Byte} (h : Opcode.ofByte b = none) :
    b.toNat ∉ [0x01, 0x10, 0x11, 0x12, 0x13, 0x14, 0x15, 0x16, 0x20, 0x21, 0x30, 0x31, 0x32, 0x33] := by
  unfold Opcode.ofByte at h
  split at h <;> cases h
  simp only [List.mem_cons, List.not_mem_nil, or_false, not_or]
  simp only [imp_false] at *
  omega
/-- A byte that is no context id is above them (R85). -/
theorem Ctx.reserved_of_none {b : Byte} (h : Ctx.ofByte b = none) : 3 < b.toNat := by
  unfold Ctx.ofByte at h
  split at h <;> cases h
  simp only [imp_false] at *
  omega
/-- A byte that is no buffer id is above them (R40, R85). -/
theorem Buf.reserved_of_none {b : Byte} (h : Buf.ofByte b = none) : 4 < b.toNat := by
  unfold Buf.ofByte at h
  split at h <;> cases h
  simp only [imp_false] at *
  omega

/-- The selectors that exist in a context, in the numbers of R36 (first column). -/
abbrev selExists (unit sel : Nat) : Prop :=
  sel ≤ 0x0C ∨ unit = 1 ∧ 0x20 ≤ sel ∧ sel ≤ 0x32 ∨ (unit = 2 ∨ unit = 3) ∧ 0x40 ≤ sel ∧ sel ≤ 0x43

/-- The selectors that are read-only in a context, in the numbers of R36 (second column). -/
abbrev selReadOnly (unit sel : Nat) : Prop :=
  sel ∈ [0x04, 0x05, 0x0A] ∨ sel = 0x09 ∧ unit ≠ 0 ∨ unit = 1 ∧ sel = 0x30 ∨
    (unit = 2 ∨ unit = 3) ∧ sel = 0x42 ∨ unit = 3 ∧ (sel = 0x40 ∨ sel = 0x43)

theorem Reg.existsIn_iff (r : Reg) (c : Ctx) : r.existsIn c = true ↔ selExists c.toByte.toNat r.sel.toNat := by
  cases c <;> rcases r with r | r | r <;> cases r <;> decide
theorem Reg.readOnlyIn_iff {r : Reg} {c : Ctx} (h : r.existsIn c = true) :
    r.readOnlyIn c = true ↔ selReadOnly c.toByte.toNat r.sel.toNat := by
  revert h
  cases c <;> rcases r with r | r | r <;> cases r <;> decide
/-- A byte that is the selector of no register exists in no context (R36). -/
theorem Reg.reserved_of_none {b : Byte} (h : Reg.ofSel b = none) (unit : Nat) : ¬ selExists unit b.toNat := by
  unfold Reg.ofSel at h
  split at h <;> cases h
  simp only [imp_false] at *
  omega

/-! #### A choice by the unit or by the selector refuses by a rule on its number

This holds when the rule is true of every number that names nothing, and for a number that names something exactly when
what follows refuses. -/

section ByNumber
variable {unit sel : Byte} {c : Ctx}

theorem refused_withCtx {k : Ctx → Except Illegal Instr} (rule : Nat → Prop) (reserved : ∀ n, 3 < n → rule n)
    (named : ∀ c : Ctx, Refused (k c) ↔ rule c.toByte.toNat) : Refused (withCtx unit k) ↔ rule unit.toNat := by
  cases h : Ctx.ofByte unit with
  | some c => rw [Ctx.eq_toByte h, withCtx_toByte, named]
  | none => simpa [withCtx, h] using reserved _ (Ctx.reserved_of_none h)
theorem refused_withBuf {k : Buf → Except Illegal Instr} (rule : Nat → Prop) (reserved : ∀ n, 4 < n → rule n)
    (named : ∀ b : Buf, Refused (k b) ↔ rule b.toByte.toNat) : Refused (withBuf unit k) ↔ rule unit.toNat := by
  cases h : Buf.ofByte unit with
  | some b => rw [Buf.eq_toByte h, withBuf_toByte, named]
  | none => simpa [withBuf, h] using reserved _ (Buf.reserved_of_none h)
theorem refused_withReg {k : Reg → Except Illegal Instr} (rule : Nat → Prop)
    (absent : ∀ n, ¬ selExists c.toByte.toNat n → rule n)
    (named : ∀ r : Reg, r.existsIn c = true → (Refused (k r) ↔ rule r.sel.toNat)) :
    Refused (withReg c sel k) ↔ rule sel.toNat := by
  cases h : Reg.ofSel sel with
  | none => simpa [withReg, h] using absent _ (Reg.reserved_of_none h _)
  | some r =>
    rw [Reg.eq_sel h]
    by_cases existing : r.existsIn c = true
    · rw [withReg_sel existing, named r existing]
    · simpa [withReg, existing] using absent _ (mt (r.existsIn_iff c).2 existing)

end ByNumber

theorem Ctx.toByte_le (c : Ctx) : c.toByte.toNat ≤ 3 := by cases c <;> decide

/-- The conditions of R88 on RDF: (e), (f) and (h) only. -/
theorem illegalFields_rdf (unit sel arg : Nat) :
    illegalFields 0x20 unit sel 0 arg ↔ 3 < unit ∨ ¬ selExists unit sel ∨ arg ≠ 0 := by
  simp [illegalFields, selExists]
/-- The conditions of R88 on WRF: (e), (f) and (g) only. -/
theorem illegalFields_wrf (unit sel arg : Nat) :
    illegalFields 0x21 unit sel 0 arg ↔ 3 < unit ∨ ¬ selExists unit sel ∨ selReadOnly unit sel := by
  simp [illegalFields, selExists, selReadOnly]

theorem refused_rdf (unit sel : Byte) (arg : Word) :
    Refused (decodeOpcode unit sel arg .rdf) ↔
      3 < unit.toNat ∨ ¬ selExists unit.toNat sel.toNat ∨ arg.toNat ≠ 0 := by
  refine refused_withCtx (fun u => 3 < u ∨ ¬ selExists u sel.toNat ∨ arg.toNat ≠ 0) (fun _ => .inl) fun c => ?_
  refine refused_withReg (fun n => 3 < c.toByte.toNat ∨ ¬ selExists c.toByte.toNat n ∨ arg.toNat ≠ 0)
    (fun _ absent => .inr (.inl absent)) fun r existing => ?_
  have inCtx := (r.existsIn_iff c).1 existing
  simp only [refused_needArgZero, not_refused_ok, or_false, c.toByte_le.not_gt, inCtx, not_true_eq_false, false_or]

theorem refused_wrf (unit sel : Byte) (arg : Word) :
    Refused (decodeOpcode unit sel arg .wrf) ↔
      3 < unit.toNat ∨ ¬ selExists unit.toNat sel.toNat ∨ selReadOnly unit.toNat sel.toNat := by
  refine refused_withCtx (fun u => 3 < u ∨ ¬ selExists u sel.toNat ∨ selReadOnly u sel.toNat) (fun _ => .inl)
    fun c => ?_
  refine refused_withReg
    (fun n => 3 < c.toByte.toNat ∨ ¬ selExists c.toByte.toNat n ∨ selReadOnly c.toByte.toNat n)
    (fun _ absent => .inr (.inl absent)) fun r existing => ?_
  have inCtx := (r.existsIn_iff c).1 existing
  rw [← Reg.readOnlyIn_iff existing]
  simp only [c.toByte_le.not_gt, inCtx, not_true_eq_false, false_or]
  split <;> simp [*]

/-- The rows of one opcode refuse exactly by (c) to (h) of R88. -/
theorem refused_decodeOpcode_iff (unit sel : Byte) (arg : Word) (o : Opcode) :
    Refused (decodeOpcode unit sel arg o) ↔ illegalFields o.toByte.toNat unit.toNat sel.toNat 0 arg.toNat := by
  cases o
  case csum =>
    by_cases zero : unit.toNat = 0 <;> simp [decodeOpcode, BitVec.toNat_eq, zero, illegalFields, Opcode.toByte]
  case construct | build | setSrc | setDst =>
    refine refused_withCtx (fun n => illegalFields _ n _ _ _) (fun n reserved => ?_) fun c => ?_
    · simp [illegalFields, Opcode.toByte, reserved]
    · cases c <;> simp [illegalFields, Opcode.toByte, Ctx.toByte]
  case setSport | setDport | setPay =>
    refine refused_withCtx (fun n => illegalFields _ n _ _ _) (fun n reserved => ?_) fun c => ?_
    · simp [illegalFields, Opcode.toByte]; omega
    · cases c <;> simp [illegalFields, Opcode.toByte, Ctx.toByte]
  case rdf => exact (refused_rdf unit sel arg).trans (illegalFields_rdf _ _ _).symm
  case wrf => exact (refused_wrf unit sel arg).trans (illegalFields_wrf _ _ _).symm
  case clr | push | ldb | getLen =>
    refine refused_withBuf (fun n => illegalFields _ n _ _ _) (fun n reserved => ?_) fun b => ?_
    · simp [illegalFields, Opcode.toByte]; omega
    · cases b <;> simp [illegalFields, Opcode.toByte, Buf.toByte]

/-- A pair of words is refused exactly by (a) to (h) of R88. -/
theorem refused_decode_iff (cmd arg : Word) : Refused (decode cmd arg) ↔ illegalByRule cmd arg := by
  rw [illegalByRule, ← cmdOp_toNat, ← cmdUnit_toNat, ← cmdSel_toNat, ← cmdZero_toNat]
  obtain ⟨low, h⟩ | ⟨reserved, h⟩ | ⟨o, unit, sel, rfl, h⟩ := decode_cases cmd arg <;> rw [h]
  · exact iff_of_true (refused_error _) (.inr (.inl fun zero => low (BitVec.eq_of_toNat_eq zero)))
  · exact iff_of_true (refused_error _) (.inl (Opcode.reserved_of_none reserved))
  · simpa using refused_decodeOpcode_iff unit sel arg o

end Sys2Proof
end

section
/-! ### A step on a presented command (O5, O6), terms that are no command (O13), lengths (O42) -/

namespace Sys2Proof.Machine

section Presented
variable {s : State} {cmd arg : Word} {rest : List HostEvent} (presented : s.host = .command cmd arg :: rest)
include presented

theorem step_of_decode_ok {i : Instr} (h : decode cmd arg = .ok i) :
    step s = exec i { s with host := rest, rsp := none } := by
  simp only [step, presented, h, accept_eq]

theorem step_of_decode_error {e : Illegal} (h : decode cmd arg = .error e) :
    step s = .next (faulted { s with host := rest } .illegalCommand) := by
  simp only [step, presented, h, accept_eq, raise_eq, faulted]

end Presented

theorem decode_of_decodeTableWord {nbits w : Nat} {i : Instr} (h : decodeTableWord nbits w = some i) :
    decode (tableCmd nbits w) (tableArg nbits w) = .ok i := by
  unfold decodeTableWord at h
  split at h <;> cases h
  assumption

/-- Settles O6: `step` on the host's next event, given what the decoder answers. -/
theorem stepRunsTheDecodedCommand : Obligations.StepRunsTheDecodedCommand := by
  refine ⟨fun s cmd arg rest hh => ⟨fun i => step_of_decode_ok hh, fun e => step_of_decode_error hh⟩, fun s hh => ?_,
    fun s nbits w i h => ?_⟩
  · simp only [step, hh]
  · exact step_of_decode_ok rfl (decode_of_decodeTableWord h)

/-- Settles O5: the decoder refuses exactly by (a) to (h), and a step on refused words faults. -/
theorem illegalExactlyByRule : Obligations.IllegalExactlyByRule := by
  intro cmd arg
  refine ⟨refused_decode_iff cmd arg, fun illegal s rest hh => ?_⟩
  obtain ⟨e, he⟩ := (refused_decode_iff cmd arg).2 illegal
  exact step_of_decode_error hh he

/-- Settles O13: SETPAY of context IP, RDF of a register that does not exist, WRF of one that is not writable. -/
theorem termWithoutEncodingIsIllegal : Obligations.TermWithoutEncodingIsIllegal := by
  intro i s notWf
  cases i with
  | setPay c =>
    cases c with
    | ip => rfl
    | tcp | icmp | ping => cases notWf
  | rdf c r => exact if_neg (Bool.eq_false_iff.1 notWf)
  | wrf c r v => exact if_neg (Bool.eq_false_iff.1 notWf)
  | _ => cases notWf

theorem lengthWord_toNat {n : Nat} (h : n < 2 ^ 32) : (lengthWord n).toNat = n := by
  rw [lengthWord_of_lt n h, BitVec.toNat_ofNat, Nat.mod_eq_of_lt h]

/-- Every buffer is within its capacity (R40). -/
theorem buf_length_le_capOf {p : Params} {m : Memory} (h : m.wf p) (b : Buf) : (m.buf b).length ≤ capOf p b := by
  obtain ⟨scratch, tcpPay, icmpPay, pingPay, out, -⟩ := h
  cases b <;> assumption

/-- Settles O42: under the invariant every buffer is within its capacity, and PAY_CAP is at most
SCRATCH_CAP + 1 (R4). -/
theorem lengthsBelowWordAreExact : Obligations.LengthsBelowWordAreExact := by
  refine ⟨fun n => lengthWord_toNat, fun s t b hs hscratch hout h => ?_⟩
  obtain rfl := (respond_next_iff _ _ _).1 h
  refine ⟨_, rfl, rfl, lengthWord_toNat ?_⟩
  obtain ⟨-, -, -, -, payCap, -⟩ := hs.params
  refine (buf_length_le_capOf hs.mem b).trans_lt ?_
  cases b <;> simp only [capOf] <;> omega

end Sys2Proof.Machine
end

section
/-! ### Pseudo-instructions (O56)

The expansions of LOADS and LOADPAY begin with CLR, and until a SETPAY they run through states that differ from the
first in SCRATCH and in the response alone. -/

namespace Sys2Proof.Machine

/-- The state `s` with the bytes `l` in SCRATCH, answered OK with result `v`. -/
def State.holding (s : State) (l : List Byte) (v : Word) : State :=
  { s.setBuf .scratch l with rsp := some { status := .ok, result := v } }

theorem runExpansion_cons_of_ok {i : Instr} {is : List Instr} {s t : State} (h : exec i s = .next t) (ok : t.isOk) :
    runExpansion (i :: is) s = runExpansion is t := by
  obtain ⟨v, hv⟩ := ok
  have answered : t.answeredOk = true := by simp [State.answeredOk, hv]
  simp only [runExpansion, h, answered, if_true]

section Holding
variable (s : State) (l : List Byte) (v : Word) (c : Ctx) (r : Reg)
theorem holding_isOk : (s.holding l v).isOk := ⟨v, rfl⟩
theorem holding_valid : (s.holding l v).valid c = s.valid c := by cases c <;> rfl
theorem holding_readField : (s.holding l v).readField c r = s.readField c r := readField_setBuf s .scratch l c r
end Holding

theorem exec_clr (s : State) : exec .clr s = .next (s.holding [] 0) := rfl

theorem exec_push_of_room {s : State} {a : Word} (byte : a.toNat < 2 ^ 8)
    (room : s.mem.scratch.length < s.params.scratchCap) :
    exec (.push a) s =
      respond (lengthWord (s.mem.scratch.length + 1)) (s.setBuf .scratch (s.mem.scratch ++ [a.setWidth 8])) := by
  simp only [exec, execPush, (fits_eq_true_iff 8 a).2 byte, room, if_true]

/-- PUSH of a byte where SCRATCH has room (R117). -/
theorem exec_push_holding {s : State} {l : List Byte} (v : Word) (b : Byte) (room : l.length < s.params.scratchCap) :
    exec (.push (b.setWidth 32)) (s.holding l v) = .next (s.holding (l ++ [b]) (lengthWord (l.length + 1))) := by
  have pushed := exec_push_of_room (s := s.holding l v) (toNat_setWidth_lt b 32) room
  rwa [BitVec.setWidth_setWidth_of_le b (by decide), BitVec.setWidth_eq] at pushed

/-- A row of PUSHes appends its bytes to SCRATCH, where SCRATCH has room for all of them (R95, R117). -/
theorem runExpansion_pushAll {s : State} (rest : List Instr) (bytes l : List Byte) (v : Word)
    (room : l.length + bytes.length ≤ s.params.scratchCap) :
    ∃ v', runExpansion (pushAll bytes ++ rest) (s.holding l v) = runExpansion rest (s.holding (l ++ bytes) v') := by
  induction bytes generalizing l v with
  | nil => exact ⟨v, by rw [List.append_nil]; rfl⟩
  | cons b bytes ih =>
    rw [List.length_cons] at room
    obtain ⟨v', h⟩ := ih (l ++ [b]) (lengthWord (l.length + 1)) (by simp; omega)
    refine ⟨v', ?_⟩
    rw [List.append_assoc, List.singleton_append] at h
    exact (runExpansion_cons_of_ok (exec_push_holding v b (by omega)) (holding_isOk _ _ _)).trans h

/-- CLR and a row of PUSHes leave exactly the bytes pushed in SCRATCH. -/
theorem runExpansion_clr_pushAll {s : State} (rest : List Instr) {bytes : List Byte}
    (room : bytes.length ≤ s.params.scratchCap) :
    ∃ v, runExpansion (.clr :: pushAll bytes ++ rest) s = runExpansion rest (s.holding bytes v) := by
  obtain ⟨v, h⟩ := runExpansion_pushAll rest bytes [] 0 (by simpa using room)
  exact ⟨v, (runExpansion_cons_of_ok (exec_clr s) (holding_isOk _ _ _)).trans h⟩

/-- The expansion of LOADS is CLR and the PUSHes of its text's ASCII codes. -/
theorem expand_loadS {text : List Char} (ascii : ∀ ch ∈ text, ch.toNat < 128) :
    (Pseudo.loadS text).expand = .clr :: pushAll (text.map fun ch => BitVec.ofNat 8 ch.toNat) := by
  simp only [Pseudo.expand, pushAll, List.map_map]
  congr 1
  refine List.map_congr_left fun ch hch => ?_
  have := ascii ch hch
  congr 1
  apply BitVec.eq_of_toNat_eq
  simp
  omega

theorem exec_setPay_of_fits {s : State} {c : Ctx} {b : Buf} (hb : payBuf c = some b) (valid : s.valid c = true)
    (fit : (padPayload c s.mem.scratch).length ≤ s.params.payCap) :
    exec (.setPay c) s = respond (lengthWord (padPayload c s.mem.scratch).length)
      (s.setBuf b (padPayload c s.mem.scratch)) := by
  simp only [exec, execSetPay, hb, valid, fit, if_true]

theorem payBuf_ne_scratch {c : Ctx} {b : Buf} (h : payBuf c = some b) : b ≠ .scratch := by
  cases c <;> cases h <;> decide

/-- Settles O56: the PUSHes fill SCRATCH, by induction on their bytes; SETPAY then copies it. -/
theorem pseudoInstructionsLoadTheirBytes : Obligations.PseudoInstructionsLoadTheirBytes := by
  refine ⟨fun s text ascii room => ?_, fun s c b bytes valid hb room fit => ?_⟩
  · obtain ⟨v, h⟩ := runExpansion_clr_pushAll [] ((List.length_map _).trans_le room)
    rw [List.append_nil, ← expand_loadS ascii] at h
    exact ⟨_, h, holding_isOk _ _ _, rfl, fun c r _ => holding_readField _ _ _ c r⟩
  · obtain ⟨v, h⟩ := runExpansion_clr_pushAll [.setPay c] room
    have copied := exec_setPay_of_fits (s := s.holding bytes v) hb ((holding_valid s bytes v c).trans valid) fit
    refine ⟨_, h.trans (runExpansion_cons_of_ok copied ⟨_, rfl⟩), ⟨_, rfl⟩, ?_, buf_setBuf_same _ _ _, ?_⟩
    · exact buf_setBuf_other _ b .scratch _ (payBuf_ne_scratch hb).symm
    · intro c' r _
      exact (readField_setBuf (s.holding bytes v) b (padPayload c bytes) c' r).trans (holding_readField s bytes v c' r)

end Sys2Proof.Machine
end

section
/-! ### Field and buffer access: RDF and WRF (O37, O38), the buffers (O36, O40, O41) -/

namespace Sys2Proof.Machine

/-! #### RDF and WRF -/

theorem fits_eq_false_iff (w : Nat) (a : Word) : fits w a = false ↔ 2 ^ w ≤ a.toNat := by
  simp [fits]

theorem exec_rdf_of_value {s : State} {c : Ctx} {r : Reg} {v : Word} (existing : r.existsIn c = true)
    (value : s.readField c r = some v) : exec (.rdf c r) s = respond v s := by
  simp only [exec, execRdf, existing, value, if_true]

theorem exec_wrf_of_fits {s : State} {c : Ctx} {r : Reg} {v : Word} (writable : r.writableIn c = true)
    (valid : s.valid c = true) (fit : v.toNat < 2 ^ r.width) :
    exec (.wrf c r v) s = respond 0 (s.writeField c r v) := by
  simp only [exec, execWrf, writable, valid, (fits_eq_true_iff _ v).2 fit, if_true]

/-- A value too wide for the field is refused (R113). -/
theorem exec_wrf_of_overflow {s : State} {c : Ctx} {r : Reg} {v : Word} (writable : r.writableIn c = true)
    (valid : s.valid c = true) (wide : 2 ^ r.width ≤ v.toNat) :
    exec (.wrf c r v) s = .next (faulted s .fieldOverflowError) := by
  simp [exec, execWrf, writable, valid, (fits_eq_false_iff _ v).2 wide, raise_eq]

theorem Reg.existsIn_of_writableIn {r : Reg} {c : Ctx} (h : r.writableIn c = true) : r.existsIn c = true :=
  (Bool.and_eq_true_iff.1 h).1

/-- A register that exists in a constructed context has a value (R36, R112). -/
theorem exists_readField_eq {s : State} {c : Ctx} {r : Reg} (existing : r.existsIn c = true)
    (valid : s.valid c = true) : ∃ v, s.readField c r = some v :=
  Option.isSome_iff_exists.1 (by rw [readField_isSome, existing, valid]; rfl)

/-- Settles O37: RDF answers the value the register has. -/
theorem rdfAnswersTheRegister : Obligations.RdfAnswersTheRegister := by
  intro s c r existing valid
  obtain ⟨v, value⟩ := exists_readField_eq existing valid
  exact ⟨v, value, (exec_rdf_of_value existing value).trans (respond_eq v s)⟩

/-- In a constructed context a value that fits a register is read back as it was written (R113, R114). -/
theorem readField_writeField_same {s : State} {c : Ctx} {r : Reg} {v : Word} (existing : r.existsIn c = true)
    (valid : s.valid c = true) (fit : v.toNat < 2 ^ r.width) : (s.writeField c r v).readField c r = some v := by
  obtain ⟨old, value⟩ := exists_readField_eq existing valid
  cases r with
  | ip r =>
    obtain ⟨b, bank, -⟩ := Option.map_eq_some_iff.1 value
    simp [State.writeField, State.readField, ipBank_mapIpBank_same, bank, b.read_write_same r v fit]
  | tcp r =>
    obtain ⟨b, bank, -⟩ := Option.map_eq_some_iff.1 value
    cases c with
    | tcp => simp [State.writeField, State.readField, tcpBank_mapTcpBank, bank, b.read_write_same r v fit]
    | ip | icmp | ping => cases bank
  | icmp r =>
    obtain ⟨b, bank, -⟩ := Option.map_eq_some_iff.1 value
    simp [State.writeField, State.readField, icmpBank_mapIcmpBank_same, bank, b.read_write_same r v fit]

/-- Settles O38: the write changes the one register, which then reads as the value written. -/
theorem wrfWritesThenRdfReads : Obligations.WrfWritesThenRdfReads := by
  intro s c r v writable valid
  refine ⟨fun fit => ?_, exec_wrf_of_overflow writable valid⟩
  have existing := Reg.existsIn_of_writableIn writable
  have value := readField_writeField_same existing valid fit
  obtain ⟨regs, -⟩ := writeField_frame s c r v
  exact ⟨_, (exec_wrf_of_fits writable valid fit).trans (respond_eq _ _), rfl, value, regs, writeField_mem ..,
    ⟨writeField_params .., writeField_host ..⟩, exec_rdf_of_value existing value⟩

/-! #### CLR, PUSH, SETPAY -/

theorem exec_push_of_wide {s : State} {a : Word} (wide : 0xFF < a.toNat) :
    exec (.push a) s = .next (faulted s .fieldOverflowError) := by
  simp [exec, execPush, (fits_eq_false_iff 8 a).2 wide, raise_eq]

theorem exec_push_of_full {s : State} {a : Word} (byte : a.toNat < 2 ^ 8)
    (full : s.params.scratchCap ≤ s.mem.scratch.length) :
    exec (.push a) s = .next (faulted s .bufferRangeError) := by
  simp only [exec, execPush, (fits_eq_true_iff 8 a).2 byte, full.not_gt, if_true, if_false, raise_eq]

/-- Settles O40: CLR, and PUSH of a byte with room, of a wide operand, and onto a full SCRATCH. -/
theorem clrAndPushChangeScratch : Obligations.ClrAndPushChangeScratch := by
  intro s a
  refine ⟨exec_clr s, fun byte room => ?_, exec_push_of_wide, fun byte full => ?_⟩
  · exact exec_push_of_room (Nat.lt_succ_of_le byte) room
  · exact exec_push_of_full (Nat.lt_succ_of_le byte) full.ge

theorem exec_setPay_of_overflow {s : State} {c : Ctx} {b : Buf} (hb : payBuf c = some b) (valid : s.valid c = true)
    (long : s.params.payCap < (padPayload c s.mem.scratch).length) :
    exec (.setPay c) s = .next (faulted s .bufferRangeError) := by
  simp only [exec, execSetPay, hb, valid, long.not_ge, if_true, if_false, raise_eq]

/-- Every transport context has a payload buffer (R120). -/
theorem exists_payBuf_eq {c : Ctx} (h : c ≠ .ip) : ∃ b, payBuf c = some b := by
  cases c with
  | ip => exact absurd rfl h
  | tcp | icmp | ping => exact ⟨_, rfl⟩

/-- Storing a context's payload buffer, buffer by buffer. -/
theorem setBuf_of_payBuf {c : Ctx} {b : Buf} (h : payBuf c = some b) (m : Memory) (l : List Byte) :
    m.setBuf b l =
      { m with
        tcpPay := if c = .tcp then l else m.tcpPay
        icmpPay := if c = .icmp then l else m.icmpPay
        pingPay := if c = .ping then l else m.pingPay } := by
  cases c <;> cases h <;> rfl

/-- Settles O36: the copy is SCRATCH with the padding of R120, stored in the context's own payload buffer. -/
theorem setPayCopiesScratch : Obligations.SetPayCopiesScratch := by
  intro s c notIp valid
  obtain ⟨b, hb⟩ := exists_payBuf_eq notIp
  refine ⟨fun fit => ?_, fun long => exec_setPay_of_overflow hb valid long⟩
  rw [exec_setPay_of_fits hb valid fit, respond_eq, State.setBuf, setBuf_of_payBuf hb]
  rfl

/-! #### LDB and GETLEN -/

theorem exec_ldb_of_lt {s : State} {b : Buf} {a : Word} (h : a.toNat < (s.mem.buf b).length) :
    exec (.ldb b a) s = respond (BitVec.ofNat 32 (s.mem.buf b)[a.toNat].toNat) s := by
  simp only [exec, execLdb, Memory.read, List.getElem?_eq_getElem h, BitVec.ofNat_toNat]

theorem exec_ldb_of_ge {s : State} {b : Buf} {a : Word} (h : (s.mem.buf b).length ≤ a.toNat) :
    exec (.ldb b a) s = .next (faulted s .bufferRangeError) := by
  simp only [exec, execLdb, Memory.read, List.getElem?_eq_none h, raise_eq]

/-- Settles O41: LDB below the length and from there on, and GETLEN. -/
theorem ldbAndGetLenReadBuffers : Obligations.LdbAndGetLenReadBuffers :=
  fun _ _ _ => ⟨exec_ldb_of_lt, exec_ldb_of_ge, rfl⟩

end Sys2Proof.Machine
end

section
/-! ### The wire positions of the registers (O39) -/

namespace Sys2Proof.Machine

/-! #### Bits of a byte list -/

theorem foldl_bytes (l : List Byte) (n : Nat) :
    l.foldl (fun n b => n * 256 + b.toNat) n = n * 256 ^ l.length + bytesNat l := by
  induction l generalizing n with
  | nil => simp [bytesNat]
  | cons b l ih =>
    simp only [bytesNat, List.foldl_cons, List.length_cons]
    rw [ih, ih (0 * 256 + b.toNat)]
    ring

theorem bytesNat_append (l l' : List Byte) : bytesNat (l ++ l') = bytesNat l * 256 ^ l'.length + bytesNat l' := by
  rw [bytesNat, List.foldl_append, foldl_bytes]
  rfl

/-- Bits that lie within the first bytes do not depend on what follows. -/
theorem bitsAt_append_left {l : List Byte} (l' : List Byte) {first width : Nat} (h : first + width ≤ 8 * l.length) :
    bitsAt (l ++ l') first width = bitsAt l first width := by
  rw [bitsAt, List.take_append_of_le_length (by omega), bitsAt]

/-- Bits that lie after the first bytes do not depend on them. -/
theorem bitsAt_append_right (l : List Byte) {l' : List Byte} {first width : Nat}
    (h : first + width ≤ 8 * l'.length) : bitsAt (l ++ l') (8 * l.length + first) width = bitsAt l' first width := by
  obtain ⟨n, hn⟩ : ∃ n, n = (first + width + 7) / 8 := ⟨_, rfl⟩
  have taken : (8 * l.length + first + width + 7) / 8 = l.length + n := by omega
  have len : (l'.take n).length = n := by rw [List.length_take]; omega
  have shift : (l.length + n) * 8 - (8 * l.length + first + width) = n * 8 - (first + width) := by omega
  have scale : (256 : Nat) ^ n = 2 ^ (n * 8 - (first + width)) * (2 ^ width * 2 ^ first) := by
    rw [show (256 : Nat) = 2 ^ 8 from rfl, ← pow_mul, ← pow_add, ← pow_add]
    congr 1
    omega
  rw [bitsAt, bitsAt, taken, shift, ← hn, List.take_length_add_append, bytesNat_append, len, scale]
  rw [mul_left_comm, Nat.mul_add_div (by positivity), mul_left_comm, Nat.mul_add_mod]

/-- Bits of a byte list, read from the byte in which they begin. -/
theorem bitsAt_eq_drop {l : List Byte} {first width : Nat} (h : first + width ≤ 8 * l.length) :
    bitsAt l first width = bitsAt (l.drop (first / 8)) (first % 8) width := by
  have taken : (l.take (first / 8)).length = first / 8 := by rw [List.length_take]; omega
  have within : first % 8 + width ≤ 8 * (l.drop (first / 8)).length := by rw [List.length_drop]; omega
  rw [← bitsAt_append_right (l.take (first / 8)) within, List.take_append_drop, taken, Nat.div_add_mod]

/-! #### The layouts

What stands before the byte in which a register begins is dropped, which leaves at most four bytes to read; the bounds
brought in first are those of the registers that share a byte (R152, R181). -/

/-- Every register of an IP bank stands in the header at its wire position (R153). -/
theorem bitsAt_wireIp (b : IpBank) {r : IpReg} {first : Nat} (h : (Reg.ip r).wireBit = some first) :
    bitsAt (wireIp b) first r.width = (b.read r).toNat := by
  have := b.version.isLt
  have := b.ihl.isLt
  have := b.dscp.isLt
  have := b.ecn.isLt
  have := b.flags.isLt
  have := b.fragoff.isLt
  have := b.read_lt r
  cases r <;> cases h
  all_goals
    rw [bitsAt_eq_drop (by simp [IpReg.width])]
    simp [bitsAt, bytesNat, wireIp, natByte, IpBank.read, IpReg.width] at *
    omega

/-- Every register of the TCP bank that is emitted stands in the TCP header, which follows the 160 bits of the IPv4
header, at its wire position (R182). -/
theorem bitsAt_wireTcp (b : TcpBank) {r : TcpReg} {first : Nat} (h : (Reg.tcp r).wireBit = some first) :
    bitsAt (wireTcp b) (first - 160) r.width = (b.read r).toNat := by
  have := b.hlw.isLt
  have := b.rsvd.isLt
  have := b.ns.isLt
  have := b.cwr.isLt
  have := b.ece.isLt
  have := b.urg.isLt
  have := b.ack.isLt
  have := b.psh.isLt
  have := b.rst.isLt
  have := b.syn.isLt
  have := b.fin.isLt
  have := b.read_lt r
  cases r <;> cases h
  all_goals
    rw [bitsAt_eq_drop (by simp [TcpReg.width])]
    simp [bitsAt, bytesNat, wireTcp, natByte, TcpBank.read, TcpReg.width] at *
    omega

/-- Every register of an ICMP bank stands in the ICMP header at its wire position (R212). -/
theorem bitsAt_wireIcmp (b : IcmpBank) {r : IcmpReg} {first : Nat} (h : (Reg.icmp r).wireBit = some first) :
    bitsAt (wireIcmp b) (first - 160) r.width = (b.read r).toNat := by
  have := b.read_lt r
  cases r <;> cases h
  all_goals
    rw [bitsAt_eq_drop (by simp [IcmpReg.width])]
    simp [bitsAt, bytesNat, wireIcmp, natByte, IcmpBank.read, IcmpReg.width] at *
    omega

theorem IpReg.wireBit_within {r : IpReg} {first : Nat} (h : (Reg.ip r).wireBit = some first) :
    first + r.width ≤ 160 := by
  cases r <;> cases h <;> decide

theorem TcpReg.wireBit_within {r : TcpReg} {first : Nat} (h : (Reg.tcp r).wireBit = some first) :
    160 ≤ first ∧ first + r.width ≤ 320 := by
  cases r <;> cases h <;> decide

theorem IcmpReg.wireBit_within {r : IcmpReg} {first : Nat} (h : (Reg.icmp r).wireBit = some first) :
    160 ≤ first ∧ first + r.width ≤ 224 := by
  cases r <;> cases h <;> decide

/-- Behind the IPv4 header come a header `l` and its payload: a position within `l` is counted from bit 160. -/
theorem bitsAt_wireIp_append (e : IpBank) {l : List Byte} (p : List Byte) {first width : Nat} (behind : 160 ≤ first)
    (within : first + width ≤ 160 + 8 * l.length) :
    bitsAt (wireIp e ++ (l ++ p)) first width = bitsAt l (first - 160) width := by
  obtain ⟨k, rfl⟩ := Nat.exists_eq_add_of_le behind
  have inPacket : k + width ≤ 8 * (l ++ p).length := by rw [List.length_append]; omega
  rw [Nat.add_sub_cancel_left]
  exact (bitsAt_append_right (wireIp e) inPacket).trans (bitsAt_append_left p (by omega))

/-! #### What a BUILD emits of the registers -/

/-- Every successful BUILD emits the header of its context's IP bank first (R161). -/
theorem Succeeds.emits_header {s u : State} {c : Ctx} {len v : Word} (h : Succeeds s (buildOf c len) v u) :
    ∃ b n rest, s.ipBank c = some b ∧ u.mem.out = wireIp (emittedIp b n) ++ rest := by
  cases c with
  | ip =>
    cases h with
    | buildIp _ b bank => exact ⟨b, len.toNat, [], bank, (List.append_nil _).symm⟩
  | tcp =>
    cases h with
    | buildTcp x bank => exact ⟨x.ip, _, _, by rw [State.ipBank, bank]; rfl, List.append_assoc ..⟩
  | icmp =>
    cases h with
    | buildIcmp x bank => exact ⟨x.ip, _, _, by rw [State.ipBank, bank]; rfl, rfl⟩
  | ping =>
    cases h with
    | buildPing x m bank => exact ⟨x.ip, _, _, by rw [State.ipBank, bank]; rfl, rfl⟩

/-- BUILD.TCP emits the TCP header behind it (R186). -/
theorem Succeeds.emits_tcp {s u : State} {v : Word} (h : Succeeds s .buildTcp v u) :
    ∃ x e p, s.tcp = some x ∧ u.mem.out = wireIp e ++ (wireTcp (builtTcp x p) ++ p) := by
  cases h with
  | buildTcp x bank => exact ⟨x, _, _, bank, List.append_assoc ..⟩

/-- BUILD.ICMP and BUILD.PING emit the ICMP header behind it, BUILD.PING with the next `OPTION` (R214, R233). -/
theorem Succeeds.emits_icmp {s u : State} {c : Ctx} {len v : Word} {b : IcmpBank}
    (h : Succeeds s (buildOf c len) v u) (bank : s.icmpBank c = some b) :
    ∃ m e p, (m = b ∨ c = .ping ∧ m = { b with option := nextEcho b.option }) ∧
      u.mem.out = wireIp e ++ (wireIcmp (builtIcmp m p) ++ p) := by
  cases c with
  | ip | tcp => cases bank
  | icmp =>
    cases h with
    | buildIcmp x standing =>
      rw [State.icmpBank, standing] at bank
      cases bank
      exact ⟨x.icmp, _, _, .inl rfl, rfl⟩
  | ping =>
    cases h with
    | buildPing x m standing _ _ next =>
      rw [State.icmpBank, standing] at bank
      cases bank
      exact ⟨m, _, _, .inr ⟨rfl, next⟩, rfl⟩

/-- A build computes no register of the IP bank that the host may write (R36, R161). -/
theorem read_emittedIp_of_writable {c : Ctx} {r : IpReg} (h : (Reg.ip r).writableIn c = true) (b : IpBank) (n : Nat) :
    (emittedIp b n).read r = b.read r := by
  cases r with
  | totlen | hcsum => simp [Reg.writableIn, Reg.readOnlyIn] at h
  | _ => rfl

theorem read_builtTcp_of_writable {c : Ctx} {r : TcpReg} (h : (Reg.tcp r).writableIn c = true) (x : TcpContext)
    (p : List Byte) : (builtTcp x p).read r = x.tcp.read r := by
  obtain ⟨sum, checksum⟩ : ∃ sum, builtTcp x p = { x.tcp with tcsum := sum } := ⟨_, rfl⟩
  rw [checksum]
  cases r with
  | tcsum => simp [Reg.writableIn, Reg.readOnlyIn] at h
  | _ => rfl

theorem read_builtIcmp_of_writable {c : Ctx} {r : IcmpReg} (h : (Reg.icmp r).writableIn c = true) (b : IcmpBank)
    (p : List Byte) : (builtIcmp b p).read r = b.read r := by
  cases r with
  | icsum => simp [Reg.writableIn, Reg.readOnlyIn] at h
  | _ => rfl

/-- Ping's `OPTION`, which BUILD.PING advances, is no register the host may write (R36). -/
theorem read_nextEcho_of_writable {r : IcmpReg} (h : (Reg.icmp r).writableIn .ping = true) (b : IcmpBank) :
    { b with option := nextEcho b.option }.read r = b.read r := by
  cases r with
  | option => exact absurd h (by decide)
  | _ => rfl

/-- A successful BUILD places each register that the host may write at its wire position (R153, R182, R212). -/
theorem Succeeds.places_register {s u : State} {c : Ctx} {len a v : Word} {r : Reg} {first : Nat}
    (h : Succeeds s (buildOf c len) a u) (writable : r.writableIn c = true) (position : r.wireBit = some first)
    (value : s.readField c r = some v) : bitsAt u.mem.out first r.width = v.toNat := by
  cases r with
  | ip r =>
    obtain ⟨b, n, rest, bank, out⟩ := h.emits_header
    rw [State.readField, bank] at value
    cases value
    calc
      bitsAt u.mem.out first r.width = bitsAt (wireIp (emittedIp b n)) first r.width := by
        rw [out, bitsAt_append_left rest (IpReg.wireBit_within position)]
      _ = ((emittedIp b n).read r).toNat := bitsAt_wireIp _ position
      _ = (b.read r).toNat := by rw [read_emittedIp_of_writable writable b n]
  | tcp r =>
    cases c with
    | ip | icmp | ping => cases value
    | tcp =>
      obtain ⟨x, e, p, bank, out⟩ := h.emits_tcp
      rw [State.readField, State.tcpBank, bank] at value
      cases value
      obtain ⟨behind, within⟩ := TcpReg.wireBit_within position
      calc
        bitsAt u.mem.out first r.width = bitsAt (wireTcp (builtTcp x p)) (first - 160) r.width := by
          rw [out, bitsAt_wireIp_append e p behind within]
        _ = ((builtTcp x p).read r).toNat := bitsAt_wireTcp _ position
        _ = (x.tcp.read r).toNat := by rw [read_builtTcp_of_writable writable x p]
  | icmp r =>
    obtain ⟨b, bank, rfl⟩ := Option.map_eq_some_iff.1 value
    obtain ⟨m, e, p, sent, out⟩ := h.emits_icmp bank
    obtain ⟨behind, within⟩ := IcmpReg.wireBit_within position
    have same : m.read r = b.read r := by
      obtain rfl | ⟨rfl, rfl⟩ := sent
      · rfl
      · exact read_nextEcho_of_writable writable b
    calc
      bitsAt u.mem.out first r.width = bitsAt (wireIcmp (builtIcmp m p)) (first - 160) r.width := by
        rw [out, bitsAt_wireIp_append e p behind within]
      _ = ((builtIcmp m p).read r).toNat := bitsAt_wireIcmp _ position
      _ = (b.read r).toNat := by rw [read_builtIcmp_of_writable writable m p, same]

/-- A command answered OK has succeeded. -/
theorem succeeds_of_isOk {i : Instr} {s t : State} (h : exec i s = .next t) (ok : t.isOk) :
    ∃ v u, Succeeds s i v u ∧ t = { u with rsp := some { status := .ok, result := v } } := by
  obtain ⟨e, he, rfl⟩ | succeeded := exec_next_cases h
  · exact absurd ok (faulted_not_isOk he)
  · exact succeeded

/-- Settles O39: after the write the register reads as the value written, and the BUILD places what it reads as. -/
theorem writtenFieldReachesTheWire : Obligations.WrittenFieldReachesTheWire := by
  intro s t u c r v len first writable fit position written okWritten built okBuilt
  obtain ⟨_, w, hw, rfl⟩ := succeeds_of_isOk written okWritten
  obtain ⟨_, x, hx, rfl⟩ := succeeds_of_isOk built okBuilt
  cases hw with
  | wrf _ _ _ _ valid =>
    exact hx.places_register writable position
      (readField_writeField_same (Reg.existsIn_of_writableIn writable) valid fit)

end Sys2Proof.Machine
end

section
/-! ### The checksum engine (O22, O23, O24) -/

namespace Sys2Proof.Machine

/-! #### The folded sum

`residue n` is the one number up to 0xFFFF that agrees with `n` modulo 0xFFFF and is 0 exactly when `n` is. -/

theorem residue_mod (n : Nat) : residue n % 0xFFFF = n % 0xFFFF := by
  unfold residue
  split
  · omega
  · split <;> omega

theorem residue_eq_zero_iff (n : Nat) : residue n = 0 ↔ n = 0 := by
  unfold residue
  split
  · omega
  · split <;> omega

theorem eq_residue_of_mod_eq {r n : Nat} (le : r ≤ 0xFFFF) (mod : r % 0xFFFF = n % 0xFFFF) (zero : r = 0 ↔ n = 0) :
    r = residue n := by
  have le' := residue_le n
  have mod' := residue_mod n
  have zero' := residue_eq_zero_iff n
  omega

/-- Folding the sum of two folded sums takes one carry at most (R131 (b)). -/
theorem residue_add (m n : Nat) :
    residue (m + n) =
      if 0x10000 ≤ residue m + residue n then residue m + residue n - 0xFFFF else residue m + residue n := by
  have leM := residue_le m
  have leN := residue_le n
  have modM := residue_mod m
  have modN := residue_mod n
  have zeroM := residue_eq_zero_iff m
  have zeroN := residue_eq_zero_iff n
  refine (eq_residue_of_mod_eq ?_ ?_ ?_).symm <;> split <;> omega

/-- A sum and the complement of its folded sum fold to 0xFFFF (R132). -/
theorem residue_add_complement (n : Nat) : residue (n + (0xFFFF - residue n)) = 0xFFFF := by
  have le := residue_le n
  have mod := residue_mod n
  have zero := residue_eq_zero_iff n
  exact (eq_residue_of_mod_eq (Nat.le_refl _) (by omega) (by omega)).symm

theorem complement_ocsum_toNat (l : List Byte) : 0xFFFF - (ocsum l).toNat = residue (wordSum l) := by
  rw [ocsum_toNat, Nat.sub_sub_self (residue_le _)]

theorem ocsum_eq_zero_iff (l : List Byte) : ocsum l = 0 ↔ residue (wordSum l) = 0xFFFF := by
  have le := residue_le (wordSum l)
  have zero : ocsum l = 0 ↔ (ocsum l).toNat = 0 := BitVec.toNat_inj.symm
  rw [zero, ocsum_toNat]
  omega

/-! #### The word sum -/

theorem indexedSum_cons_cons (hi lo : Byte) (rest : List Byte) :
    indexedSum (hi :: lo :: rest) = hi.toNat * 256 + lo.toNat + indexedSum rest := by
  have words : (rest.length + 1 + 1 + 1) / 2 = (rest.length + 1) / 2 + 1 := by omega
  rw [indexedSum, List.length_cons, List.length_cons, words, List.range_succ_eq_map]
  simp [indexedSum, Function.comp_def, Nat.mul_add]

/-- The sum written with indices is the sum the engine takes word by word (R130). -/
theorem indexedSum_eq_wordSum (l : List Byte) : indexedSum l = wordSum l := by
  induction l using wordSum.induct with
  | case1 => rfl
  | case2 hi => simp [indexedSum, wordSum]
  | case3 hi lo rest ih => rw [indexedSum_cons_cons, ih, wordSum]

theorem wordSum_natByte_pair (c : BitVec 16) : wordSum [natByte (c.toNat / 256), natByte c.toNat] = c.toNat := by
  have := c.isLt
  simp [wordSum, natByte]
  omega

/-- The word sum of a message is that of the 16-bit field after a first piece of even length, and that of the rest. -/
theorem wordSum_field {a : List Byte} (even : a.length % 2 = 0) (hi lo : Byte) (b : List Byte) :
    wordSum (a ++ [hi, lo] ++ b) = wordSum a + wordSum b + wordSum [hi, lo] := by
  rw [List.append_assoc, wordSum_append a _ even, wordSum_append [hi, lo] b (by simp)]
  omega

/-- The self-check of R132: a message that holds at an even position the checksum it has with zero there has
checksum 0. -/
theorem ocsum_eq_zero_of_field {a b : List Byte} {c : BitVec 16} (even : a.length % 2 = 0)
    (sum : c = ocsum (a ++ [0, 0] ++ b)) : ocsum (a ++ [natByte (c.toNat / 256), natByte c.toNat] ++ b) = 0 := by
  have complement : c.toNat = 0xFFFF - residue (wordSum a + wordSum b) := by
    rw [sum, ocsum_toNat, wordSum_field even]
    rfl
  rw [ocsum_eq_zero_iff, wordSum_field even, wordSum_natByte_pair, complement, residue_add_complement]

/-- Settles O22: the word sum written with indices, and its fold in closed form. -/
theorem csumAnswersComplementOfResidue : Obligations.CsumAnswersComplementOfResidue := by
  intro s
  have result : (ocsum s.mem.scratch).setWidth 32 = BitVec.ofNat 32 (0xFFFF - residue (indexedSum s.mem.scratch)) := by
    rw [← BitVec.ofNat_toNat, ocsum_toNat, indexedSum_eq_wordSum]
  exact result ▸ respond_eq _ s

/-- Settles O23: the two fixed points are evaluated; the self-check is the lemma above. -/
theorem checksumInPlaceVerifies : Obligations.ChecksumInPlaceVerifies :=
  ⟨by decide, by decide, fun _ _ even _ => ocsum_eq_zero_of_field even⟩

/-- Settles O24: word sums add over a first piece of even length, and folded sums with one carry. -/
theorem foldedSumsOfPiecesAdd : Obligations.FoldedSumsOfPiecesAdd := by
  intro a b even
  simp only [complement_ocsum_toNat]
  rw [wordSum_append a b even, residue_add]

end Sys2Proof.Machine
end

section
/-! ### What a BUILD emits verifies (O48, O49, O50, O58) -/

namespace Sys2Proof.Machine

/-! #### Each builder puts the checksum at an even position of what it covers -/

@[simp] theorem wirePseudo_length (src dst : BitVec 32) (proto : BitVec 8) (n : Nat) :
    (wirePseudo src dst proto n).length = 12 := rfl

/-- The message `m c` holds `c` in a field at an even position: with the checksum of `m 0` there it verifies (R132). -/
theorem ocsum_eq_zero_of_sum_placed {m : BitVec 16 → List Byte} {a b : List Byte} (even : a.length % 2 = 0)
    (field : ∀ c, m c = a ++ [natByte (c.toNat / 256), natByte c.toNat] ++ b) : ocsum (m (ocsum (m 0))) = 0 := by
  rw [field (ocsum (m 0))]
  exact ocsum_eq_zero_of_field even (congrArg ocsum (field 0))

/-- The header checksum stands in bytes 10 and 11 of the header (R153, R161). -/
theorem ocsum_wireIp_emittedIp (b : IpBank) (n : Nat) : ocsum (wireIp (emittedIp b n)) = 0 :=
  ocsum_eq_zero_of_sum_placed (m := fun c => wireIp { emittedIp b n with hcsum := c })
    (a := (wireIp (emittedIp b n)).take 10) (b := (wireIp (emittedIp b n)).drop 12) (by simp) fun _ => rfl

/-- The ICMP checksum stands in bytes 2 and 3 of the message (R212, R213). -/
theorem ocsum_wireIcmp_builtIcmp (b : IcmpBank) (p : List Byte) : ocsum (wireIcmp (builtIcmp b p) ++ p) = 0 :=
  ocsum_eq_zero_of_sum_placed (m := fun c => wireIcmp { b with icsum := c } ++ p)
    (a := (wireIcmp b).take 2) (b := (wireIcmp b).drop 4 ++ p) (by simp) fun _ => rfl

/-- The TCP checksum stands in bytes 16 and 17 of the segment, which are bytes 28 and 29 of what it covers, the
pseudo-header included (R182, R184, R185). -/
theorem ocsum_wireTcp_builtTcp (x : TcpContext) (p : List Byte) :
    ocsum (wirePseudo x.ip.src x.ip.dst x.ip.proto (x.tcp.hlw.toNat * 4 + p.length) ++
      (wireTcp (builtTcp x p) ++ p)) = 0 :=
  ocsum_eq_zero_of_sum_placed
    (m := fun c => wirePseudo x.ip.src x.ip.dst x.ip.proto (x.tcp.hlw.toNat * 4 + p.length) ++
      (wireTcp { x.tcp with tcsum := c } ++ p))
    (a := wirePseudo x.ip.src x.ip.dst x.ip.proto (x.tcp.hlw.toNat * 4 + p.length) ++ (wireTcp x.tcp).take 16)
    (b := (wireTcp x.tcp).drop 18 ++ p) (by simp) fun _ => rfl

/-! #### The header and what follows it in OUT -/

theorem take_wireIp_append (b : IpBank) (rest : List Byte) : (wireIp b ++ rest).take 20 = wireIp b :=
  List.take_left' (wireIp_length b)

theorem drop_wireIp_append (b : IpBank) (rest : List Byte) : (wireIp b ++ rest).drop 20 = rest :=
  List.drop_left' (wireIp_length b)

/-- Settles O48: every successful BUILD emits its context's header first. -/
theorem emittedIpHeaderVerifies : Obligations.EmittedIpHeaderVerifies := by
  intro s t c len h ok
  obtain ⟨v, u, hu, rfl⟩ := succeeds_of_isOk h ok
  obtain ⟨b, n, rest, -, out⟩ := hu.emits_header
  rw [out, take_wireIp_append, ocsum_wireIp_emittedIp]

/-- Settles O49: both builds emit behind the header the ICMP message with its checksum. -/
theorem emittedIcmpMessageVerifies : Obligations.EmittedIcmpMessageVerifies := by
  rintro s t c len (rfl | rfl) h ok
  all_goals
    obtain ⟨v, u, hu, rfl⟩ := succeeds_of_isOk h ok
    cases hu
    exact (congrArg ocsum (drop_wireIp_append ..)).trans (ocsum_wireIcmp_builtIcmp ..)

/-- Settles O50: with `HLW` 5 the length under the checksum is the number of TCP bytes emitted (R187). -/
theorem emittedTcpSegmentVerifies : Obligations.EmittedTcpSegmentVerifies := by
  intro s t x bank hlw h ok
  obtain ⟨v, u, hu, rfl⟩ := succeeds_of_isOk h ok
  cases hu with
  | buildTcp y standing =>
    obtain rfl : x = y := Option.some.inj (bank.symm.trans standing)
    have segment : x.tcp.hlw.toNat * 4 + s.mem.tcpPay.length = 20 + s.mem.tcpPay.length := by rw [hlw]; rfl
    have verifies := ocsum_wireTcp_builtTcp x s.mem.tcpPay
    rw [segment] at verifies
    simpa [drop_wireIp_append] using verifies

/-! #### OUT over a step -/

theorem State.outVerifies.of_out_eq {s u : State} (hs : s.outVerifies) (same : u.mem.out = s.mem.out) :
    u.outVerifies := by
  rwa [State.outVerifies, same]

/-- A change of the buffers keeps OUT empty or beginning with a header that verifies (R73, R161). -/
theorem MemChange.keeps_outVerifies {i : Instr} {s u : State} (h : MemChange i s u) (hs : s.outVerifies) :
    u.outVerifies := by
  cases h with
  | kept after => exact hs.of_out_eq (by rw [after])
  | wrote b l notOut form after => exact hs.of_out_eq (after ▸ buf_setBuf_other s.mem b .out l notOut.symm)
  | emitted c b n rest builds bank fit after =>
    refine .inr ?_
    rw [after, setBuf_out, take_wireIp_append, ocsum_wireIp_emittedIp]

theorem exec_keeps_outVerifies {i : Instr} {s t : State} (hs : s.outVerifies) (h : exec i s = .next t) :
    t.outVerifies := by
  obtain ⟨e, -, rfl⟩ | ⟨v, u, hu, rfl⟩ := exec_next_cases h
  · exact hs
  · exact hu.memChange.keeps_outVerifies hs

/-- Settles O58, by cases on the host's event: only a reset, which empties OUT, and a command can touch it. -/
theorem stepKeepsOutVerifying : Obligations.StepKeepsOutVerifying := by
  intro s t hs h
  obtain ⟨-, rfl⟩ | ⟨rest, -, rfl⟩ | ⟨rest, -, rfl⟩ | ⟨cmd, arg, rest, i, -, -, hi⟩ | ⟨cmd, arg, rest, -, rfl⟩ :=
    step_next_cases h
  · exact hs
  · exact .inl rfl
  · exact hs
  · exact exec_keeps_outVerifies (s := s.accept rest) hs hi
  · exact hs

end Sys2Proof.Machine
end

section
/-! ### The IPv4 header builder: CONSTRUCT.IP and BUILD.IP (O25, O29), the dotted-quad text (O33), SETSRC and SETDST
(O34) -/

namespace Sys2Proof.Machine

/-! #### CONSTRUCT.IP and BUILD.IP -/

theorem isProtocolNumber_eq_decide (a : Word) : isProtocolNumber a = decide (a.toNat ≤ 9) := by
  simp only [isProtocolNumber, List.mem_cons, List.not_mem_nil, or_false, decide_eq_decide]
  omega

/-- Settles O25: the protocol numbers are the operands 0 to 9, and the bank is that of R151. -/
theorem constructIpWritesTheBank : Obligations.ConstructIpWritesTheBank := by
  refine fun s a => ⟨fun legal => ?_, fun illegal => ?_⟩
  · simp only [exec, execConstructIp, isProtocolNumber_eq_decide, legal, decide_true, if_true, respond_eq, ipInit,
      BitVec.ofNat_toNat]
  · simp [exec, execConstructIp, isProtocolNumber_eq_decide, illegal, raise_eq]

/-- A length that does not fit is refused (R154). -/
theorem ipPrecheck_of_overflow {b : IpBank} {n : Nat} (long : 0xFFFF < n ∨ 0xFFFF < ipTotal b n) :
    ipPrecheck b n = some .fieldOverflowError := by
  cases he : ipPrecheck b n with
  | none =>
    obtain ⟨payFits, totalFits⟩ := (ipPrecheck_none_iff b n).1 he
    omega
  | some e =>
    obtain ⟨rfl, -⟩ := ipPrecheck_some b n e he
    rfl

/-- Settles O29: the checks of R154 pass or refuse, and a build that passes them emits the header of R161. -/
theorem buildIpEmitsTheHeader : Obligations.BuildIpEmitsTheHeader := by
  refine fun s len b bank => ⟨exec_buildIp_of_fits bank, fun long => ?_⟩
  simp only [exec, execBuildIp, bank, ipPrecheck_of_overflow long, raise_eq]

/-! #### The dotted-quad text (R160) -/

/-- The groups of a text are what the library's split at the byte 0x2E gives. -/
theorem splitDots_eq_splitOn (l : List Byte) : splitDots l = l.splitOn 0x2E := by
  induction l with
  | nil => rfl
  | cons b l ih =>
    rw [splitDots, ih, List.splitOn_cons_eq_if_modifyHead]
    cases groups : l.splitOn 0x2E with
    | nil => exact absurd groups (List.splitOn_ne_nil _ _)
    | cons g gs => simp

/-- Four groups separated by three dots (R160). -/
def dotted (g1 g2 g3 g4 : List Byte) : List Byte := g1 ++ [0x2E] ++ g2 ++ [0x2E] ++ g3 ++ [0x2E] ++ g4

theorem intercalate_dot (g1 g2 g3 g4 : List Byte) : [0x2E].intercalate [g1, g2, g3, g4] = dotted g1 g2 g3 g4 := by
  simp [List.intercalate, dotted]

theorem eq_dotted_of_splitDots {l g1 g2 g3 g4 : List Byte} (h : splitDots l = [g1, g2, g3, g4]) :
    l = dotted g1 g2 g3 g4 := by
  rw [← intercalate_dot, ← h, splitDots_eq_splitOn, List.intercalate_splitOn]

/-- A dot is no digit, so no group has one. -/
theorem dot_notMem_of_isGroup {g : List Byte} {v : Nat} (h : isGroup g v) : 0x2E ∉ g := by
  obtain ⟨digits, -⟩ := h
  intro dot
  obtain ⟨low, -⟩ := digits _ dot
  exact absurd low (by decide)

theorem splitDots_dotted {g1 g2 g3 g4 : List Byte} {o1 o2 o3 o4 : Nat} (h1 : isGroup g1 o1) (h2 : isGroup g2 o2)
    (h3 : isGroup g3 o3) (h4 : isGroup g4 o4) : splitDots (dotted g1 g2 g3 g4) = [g1, g2, g3, g4] := by
  rw [← intercalate_dot, splitDots_eq_splitOn]
  refine List.splitOn_intercalate _ ?_ (List.cons_ne_nil _ _)
  simpa using
    ⟨dot_notMem_of_isGroup h1, dot_notMem_of_isGroup h2, dot_notMem_of_isGroup h3, dot_notMem_of_isGroup h4⟩

/-- The parser of a group reads the groups of the grammar, each as its number. -/
theorem octet_eq_some_iff (g : List Byte) (v : Nat) : octet g = some v ↔ isGroup g v := by
  match g with
  | [] => simp [octet, isGroup]
  | [a] => simp [octet, isGroup, isDigit, decimal]; omega
  | [a, b] => simp [octet, isGroup, isDigit, decimal]; omega
  | [a, b, c] => simp [octet, isGroup, isDigit, decimal]; omega
  | _ :: _ :: _ :: _ :: _ => simp [octet, isGroup]

/-- What the parser does: split the text at its dots, read four groups, put the four octets together (R157, R160). -/
theorem parseQuad_eq_some_iff (l : List Byte) (a : Word) :
    parseQuad l = some a ↔
      ∃ g1 g2 g3 g4 o1 o2 o3 o4, splitDots l = [g1, g2, g3, g4] ∧
        octet g1 = some o1 ∧ octet g2 = some o2 ∧ octet g3 = some o3 ∧ octet g4 = some o4 ∧ quad o1 o2 o3 o4 = a := by
  constructor
  · intro h
    unfold parseQuad at h
    split at h
    next g1 g2 g3 g4 groups =>
      split at h
      next o1 o2 o3 o4 h1 h2 h3 h4 => exact ⟨g1, g2, g3, g4, o1, o2, o3, o4, groups, h1, h2, h3, h4, Option.some.inj h⟩
      next => cases h
    next => cases h
  · rintro ⟨g1, g2, g3, g4, o1, o2, o3, o4, groups, h1, h2, h3, h4, rfl⟩
    simp only [parseQuad, groups, h1, h2, h3, h4]

theorem isGroup_le {g : List Byte} {v : Nat} (h : isGroup g v) : v ≤ 255 := by
  obtain ⟨-, le, -⟩ := h
  exact le

theorem isGroup_length {g : List Byte} {v : Nat} (h : isGroup g v) : 1 ≤ g.length ∧ g.length ≤ 3 := by
  obtain ⟨-, -, ⟨a, rfl, -⟩ | ⟨a, b, rfl, -⟩ | ⟨a, b, c, rfl, -⟩⟩ := h <;> simp

/-- The number of four octets fits a word (R64, R157). -/
theorem quad_eq_iff {o1 o2 o3 o4 : Nat} (h1 : o1 ≤ 255) (h2 : o2 ≤ 255) (h3 : o3 ≤ 255) (h4 : o4 ≤ 255) (a : Word) :
    quad o1 o2 o3 o4 = a ↔ a.toNat = o1 * 2 ^ 24 + o2 * 2 ^ 16 + o3 * 2 ^ 8 + o4 := by
  rw [quad, ← BitVec.toNat_inj, BitVec.toNat_ofNat, Nat.mod_eq_of_lt (by omega), eq_comm]

/-- The grammar of an address: a text and the number it stands for (R157, R160). -/
def isAddress (l : List Byte) (a : Word) : Prop :=
  ∃ g1 g2 g3 g4 o1 o2 o3 o4, isGroup g1 o1 ∧ isGroup g2 o2 ∧ isGroup g3 o3 ∧ isGroup g4 o4 ∧
    l = dotted g1 g2 g3 g4 ∧ a.toNat = o1 * 2 ^ 24 + o2 * 2 ^ 16 + o3 * 2 ^ 8 + o4

theorem parseQuad_eq_some_iff_isAddress (l : List Byte) (a : Word) : parseQuad l = some a ↔ isAddress l a := by
  rw [parseQuad_eq_some_iff]
  simp only [octet_eq_some_iff]
  constructor
  · rintro ⟨g1, g2, g3, g4, o1, o2, o3, o4, groups, h1, h2, h3, h4, number⟩
    exact ⟨g1, g2, g3, g4, o1, o2, o3, o4, h1, h2, h3, h4, eq_dotted_of_splitDots groups,
      (quad_eq_iff (isGroup_le h1) (isGroup_le h2) (isGroup_le h3) (isGroup_le h4) a).1 number⟩
  · rintro ⟨g1, g2, g3, g4, o1, o2, o3, o4, h1, h2, h3, h4, rfl, number⟩
    exact ⟨g1, g2, g3, g4, o1, o2, o3, o4, splitDots_dotted h1 h2 h3 h4, h1, h2, h3, h4,
      (quad_eq_iff (isGroup_le h1) (isGroup_le h2) (isGroup_le h3) (isGroup_le h4) a).2 number⟩

/-- Four groups of one to three bytes, and three dots. -/
theorem isAddress_length {l : List Byte} {a : Word} (h : isAddress l a) : 7 ≤ l.length ∧ l.length ≤ 15 := by
  obtain ⟨g1, g2, g3, g4, o1, o2, o3, o4, h1, h2, h3, h4, rfl, -⟩ := h
  have := isGroup_length h1
  have := isGroup_length h2
  have := isGroup_length h3
  have := isGroup_length h4
  simp only [dotted, List.length_append, List.length_singleton]
  omega

/-- Settles O33: parser and grammar agree; the texts `0.0.0.0` and `000.000.000.000` attain the bounds. -/
theorem parseQuadFollowsTheGrammar : Obligations.ParseQuadFollowsTheGrammar := by
  refine ⟨parseQuad_eq_some_iff_isAddress, fun l a h => isAddress_length ((parseQuad_eq_some_iff_isAddress l a).1 h),
    ⟨dotted [0x30] [0x30] [0x30] [0x30], 0, by decide⟩, ?_⟩
  exact ⟨dotted [0x30, 0x30, 0x30] [0x30, 0x30, 0x30] [0x30, 0x30, 0x30] [0x30, 0x30, 0x30], 0, by decide⟩

/-! #### SETSRC and SETDST -/

section AddressSetters
variable {s : State} {c : Ctx} {a : Word} (valid : s.valid c = true)
include valid

/-- An address setter whose update is that of writing, by its name, a register of 32 bits: on a well-formed text it
answers the address and writes that register alone. -/
theorem setAddress_writes {put : Word → IpBank → IpBank} (r : IpReg) (put_eq : put a = fun b => b.write r a)
    (width : r.width = 32) (text : parseQuad s.mem.scratch = some a) :
    ∃ t, setAddress c put s = .next t ∧ t.rsp = some { status := .ok, result := a } ∧
      t.readField c (.ip r) = some a ∧ sameRegs s t (fun c' r' => c' = c ∧ r' = .ip r) ∧
      t.mem = s.mem ∧ sameInputs s t := by
  have answers : setAddress c put s = respond a (s.writeField c (.ip r) a) := by
    simp only [setAddress, valid, text, put_eq, if_true, State.writeField]
  have fit : a.toNat < 2 ^ r.width := by rw [width]; exact a.isLt
  have value : (s.writeField c (.ip r) a).readField c (.ip r) = some a := readField_writeField_same rfl valid fit
  obtain ⟨regs, -⟩ := writeField_frame s c (.ip r) a
  exact ⟨_, answers.trans (respond_eq _ _), rfl, value, regs, writeField_mem ..,
    writeField_params .., writeField_host ..⟩

theorem setAddress_of_malformed (put : Word → IpBank → IpBank) (malformed : parseQuad s.mem.scratch = none) :
    setAddress c put s = .next (faulted s .addressFormatError) := by
  simp only [setAddress, valid, malformed, if_true, raise_eq]

end AddressSetters

/-- Settles O34: both setters parse the same text, and each writes its own register. -/
theorem addressSettersWriteTheParsedAddress : Obligations.AddressSettersWriteTheParsedAddress := by
  refine fun s c valid => ⟨fun a text => ⟨?_, ?_⟩, fun malformed => ⟨?_, ?_⟩⟩
  · exact setAddress_writes valid .src rfl rfl text
  · exact setAddress_writes valid .dst rfl rfl text
  · exact setAddress_of_malformed valid _ malformed
  · exact setAddress_of_malformed valid _ malformed

end Sys2Proof.Machine
end

section
/-! ### What CONSTRUCT and BUILD leave unchanged (O46, O47)

That a command changes no register of a context it does not name is `Succeeds.readField_other`; what remains is, of a
BUILD, the registers of its own context, and the bytes. -/

namespace Sys2Proof.Machine

/-- Storing a buffer changes no byte of another, whatever else changed of the state. -/
theorem sameBytes_setBuf {s u : State} (same : u.mem = s.mem) (b : Buf) (l : List Byte) :
    sameBytes s (u.setBuf b l) (fun b' _ => b' = b) := by
  intro b' i other
  rw [setBuf_mem, same, read_setBuf_other _ _ _ _ _ other]

/-- A command changes registers of the context it names alone (R37). -/
theorem Succeeds.sameRegs_of_context {i : Instr} {s u : State} {v : Word} (h : Succeeds s i v u) {c : Ctx}
    (named : i.context = some c) : sameRegs s u (fun c' _ => c' = c) := by
  intro c' r other
  exact h.readField_other (fun h' => other (Option.some.inj (h'.symm.trans named))) r

/-- The same, where some registers of that context are known to stay. -/
theorem Succeeds.sameRegs_of_own {i : Instr} {s u : State} {v : Word} (h : Succeeds s i v u) {c : Ctx}
    (named : i.context = some c) {changed : Reg → Prop}
    (own : ∀ r, ¬ changed r → u.readField c r = s.readField c r) :
    sameRegs s u (fun c' r => c' = c ∧ changed r) := by
  intro c' r other
  by_cases hc : c' = c
  · subst hc
    exact own r fun hr => other ⟨rfl, hr⟩
  · exact h.sameRegs_of_context named c' r hc

/-- Settles O46: the registers belong to the named context; the one buffer stored, if any, is its payload buffer. -/
theorem frameOfConstructs : Obligations.FrameOfConstructs := by
  intro s t a
  refine ⟨fun h => ?_, fun h => ?_, fun h => ?_, fun h => ?_⟩ <;>
    refine exec_frame h fun v u hu => ⟨hu.sameRegs_of_context rfl, ?_⟩ <;> cases hu
  case constructIp => exact fun _ _ _ => rfl
  case constructTcp => exact sameBytes_setBuf rfl .tcpPay _
  case constructIcmp => exact sameBytes_setBuf rfl .icmpPay _
  case constructPing => exact sameBytes_setBuf rfl .pingPay _

/-! #### The registers a BUILD leaves -/

theorem read_builtIp_of_ne {r : IpReg} (h : ¬ ipBuildReg (.ip r)) (b : IpBank) (n : Nat) :
    (builtIp b n).read r = b.read r := by
  cases r with
  | totlen | hcsum | ident => simp [ipBuildReg] at h
  | _ => rfl

theorem read_builtTcp_of_ne {r : TcpReg} (h : r ≠ .tcsum) (x : TcpContext) (p : List Byte) :
    (builtTcp x p).read r = x.tcp.read r := by
  obtain ⟨sum, checksum⟩ : ∃ sum, builtTcp x p = { x.tcp with tcsum := sum } := ⟨_, rfl⟩
  rw [checksum]
  cases r with
  | tcsum => exact absurd rfl h
  | _ => rfl

theorem read_builtIcmp_of_ne {r : IcmpReg} (h : r ≠ .icsum) (b : IcmpBank) (p : List Byte) :
    (builtIcmp b p).read r = b.read r := by
  cases r with
  | icsum => exact absurd rfl h
  | _ => rfl

theorem read_nextEcho_of_ne {r : IcmpReg} (h : r ≠ .option) (b : IcmpBank) :
    { b with option := nextEcho b.option }.read r = b.read r := by
  cases r with
  | option => exact absurd rfl h
  | _ => rfl

/-- Of the IP bank of its context a BUILD changes `TOTLEN`, `HCSUM` and `IDENT` alone (R161). -/
theorem Succeeds.readField_ip_of_builds {i : Instr} {s u : State} {v : Word} (h : Succeeds s i v u) {c : Ctx}
    (builds : i.builds c) {r : IpReg} (hr : ¬ ipBuildReg (.ip r)) :
    u.readField c (.ip r) = s.readField c (.ip r) := by
  cases h.ipChange c with
  | constructed p constructs => exact absurd builds (Instr.not_builds_of_constructs constructs)
  | built b n _ before after =>
    simp only [State.readField, before, after, Option.map_some, read_builtIp_of_ne hr]
  | kept f _ notBuilds => exact absurd builds notBuilds

theorem Succeeds.readField_tcp_of_buildTcp {s u : State} {v : Word} (h : Succeeds s .buildTcp v u) {r : TcpReg}
    (hr : r ≠ .tcsum) : u.readField .tcp (.tcp r) = s.readField .tcp (.tcp r) := by
  cases h with
  | buildTcp x bank => simp [State.readField, State.tcpBank, bank, read_builtTcp_of_ne hr]

theorem Succeeds.readField_icmp_of_buildIcmp {s u : State} {v : Word} (h : Succeeds s .buildIcmp v u) {r : IcmpReg}
    (hr : r ≠ .icsum) : u.readField .icmp (.icmp r) = s.readField .icmp (.icmp r) := by
  cases h with
  | buildIcmp x bank => simp [State.readField, State.icmpBank, bank, read_builtIcmp_of_ne hr]

theorem Succeeds.readField_icmp_of_buildPing {s u : State} {v : Word} (h : Succeeds s .buildPing v u) {r : IcmpReg}
    (hsum : r ≠ .icsum) (hoption : r ≠ .option) : u.readField .ping (.icmp r) = s.readField .ping (.icmp r) := by
  cases h with
  | buildPing x m bank _ _ next =>
    have kept : m.read r = x.icmp.read r := next ▸ read_nextEcho_of_ne hoption x.icmp
    simp [State.readField, State.icmpBank, bank, read_builtIcmp_of_ne hsum, kept]

/-- The one buffer a BUILD stores is OUT (R73). -/
theorem Succeeds.sameBytes_of_builds {i : Instr} {s u : State} {v : Word} (h : Succeeds s i v u) {c : Ctx}
    (builds : i.builds c) : sameBytes s u (fun b _ => b = .out) := by
  cases h with
  | buildIp | buildTcp | buildIcmp | buildPing => exact sameBytes_setBuf rfl .out _
  | _ => exact absurd builds id

/-- Settles O47: of its own context a BUILD leaves every register but those it computes; it stores OUT. -/
theorem frameOfBuilds : Obligations.FrameOfBuilds := by
  intro s t
  refine ⟨fun a h => ?_, fun h => ?_, fun h => ?_, fun h => ?_⟩ <;>
    refine exec_frame h fun v u hu => ⟨hu.sameRegs_of_own rfl fun r kept => ?_, hu.sameBytes_of_builds rfl⟩
  · cases r with
    | ip r => exact hu.readField_ip_of_builds rfl kept
    | tcp r | icmp r => rfl
  · cases r with
    | ip r => exact hu.readField_ip_of_builds rfl fun hr => kept (.inl hr)
    | tcp r => exact hu.readField_tcp_of_buildTcp fun hr => kept (.inr (hr ▸ rfl))
    | icmp r => rfl
  · cases r with
    | ip r => exact hu.readField_ip_of_builds rfl fun hr => kept (.inl hr)
    | tcp r => rfl
    | icmp r => exact hu.readField_icmp_of_buildIcmp fun hr => kept (.inr (hr ▸ rfl))
  · cases r with
    | ip r => exact hu.readField_ip_of_builds rfl fun hr => kept (.inl hr)
    | tcp r => rfl
    | icmp r =>
      exact hu.readField_icmp_of_buildPing (fun hr => kept (.inr (.inl (hr ▸ rfl))))
        fun hr => kept (.inr (.inr (hr ▸ rfl)))

end Sys2Proof.Machine
end

section
/-! ### The TCP header builder: CONSTRUCT.TCP, BUILD.TCP, SETSPORT, SETDPORT (O26, O30, O35) -/

namespace Sys2Proof.Machine

/-- Settles O26: every operand is a legal sequence number, and both banks are those of R151 and R180. -/
theorem constructTcpWritesBothBanks : Obligations.ConstructTcpWritesBothBanks :=
  fun _ _ => rfl

/-! #### BUILD.TCP -/

section BuildTcp
variable {s : State} {x : TcpContext} (bank : s.tcp = some x)
include bank

/-- A BUILD.TCP that passes the checks of R186. -/
theorem exec_buildTcp_of_passes (passes : tcpPrecheck x s.mem.tcpPay.length = none) :
    exec .buildTcp s = .next
      { s with
        tcp := some { ip := builtIp x.ip (20 + s.mem.tcpPay.length), tcp := builtTcp x s.mem.tcpPay }
        mem := { s.mem with
          out := wireIp (emittedIp x.ip (20 + s.mem.tcpPay.length)) ++ wireTcp (builtTcp x s.mem.tcpPay) ++
            s.mem.tcpPay }
        rsp := some { status := .ok, result := BitVec.ofNat 32 (40 + s.mem.tcpPay.length) } } := by
  obtain ⟨-, segFits, payFits, -⟩ := (tcpPrecheck_none_iff x _).1 passes
  have answer : lengthWord (20 + 20 + s.mem.tcpPay.length) = BitVec.ofNat 32 (40 + s.mem.tcpPay.length) :=
    lengthWord_of_lt _ (by omega)
  simp [exec, execBuildTcp, bank, passes, tcpBuild_eq x s.mem.tcpPay segFits, respond_eq, State.setBuf,
    ← Nat.add_assoc, answer]

/-- A BUILD.TCP that its checks refuse faults with the status they answer (R186). -/
theorem exec_buildTcp_of_refused {e : Status} (refused : tcpPrecheck x s.mem.tcpPay.length = some e) :
    exec .buildTcp s = .next (faulted s e) := by
  simp only [exec, execBuildTcp, bank, refused, raise_eq]

end BuildTcp

/-- Without options a length that does not fit is refused (R186). -/
theorem tcpPrecheck_of_overflow {x : TcpContext} {n : Nat} (noOptions : x.tcp.options = 0)
    (long : ¬ (segLen x.tcp n ≤ 0xFFFF ∧ 20 + n ≤ 0xFFFF ∧ ipTotal x.ip (20 + n) ≤ 0xFFFF)) :
    tcpPrecheck x n = some .fieldOverflowError := by
  obtain ⟨options, -⟩ | ⟨-, -, refused⟩ | ⟨-, segFits, ipChecks⟩ := tcpPrecheck_cases x n
  · exact absurd noOptions options
  · exact refused
  · rw [ipChecks]
    exact ipPrecheck_of_overflow (by omega)

/-- Settles O30: the checks of R186 pass, or refuse the options, or refuse a length. -/
theorem buildTcpEmitsTheSegment : Obligations.BuildTcpEmitsTheSegment := by
  refine fun s x bank => ⟨fun noOptions ⟨segFits, payFits, totalFits⟩ => ?_, fun options => ?_,
    fun noOptions long => ?_⟩
  · exact exec_buildTcp_of_passes bank ((tcpPrecheck_none_iff x _).2 ⟨noOptions, segFits, payFits, totalFits⟩)
  · exact exec_buildTcp_of_refused bank (if_pos options)
  · exact exec_buildTcp_of_refused bank (tcpPrecheck_of_overflow noOptions long)

/-! #### SETSPORT and SETDPORT -/

theorem exec_setSport (a : Word) (s : State) :
    exec (.setSport a) s = setPort a (fun v b => { b with sport := v }) s := rfl

theorem exec_setDport (a : Word) (s : State) :
    exec (.setDport a) s = setPort a (fun v b => { b with dport := v }) s := rfl

section PortSetters
variable {s : State} {x : TcpContext} {a : Word} (put : BitVec 16 → TcpBank → TcpBank) (bank : s.tcp = some x)
include bank

theorem setPort_of_fits (fit : a.toNat ≤ 0xFFFF) :
    setPort a put s = .next
      { s with
        tcp := some { x with tcp := put (BitVec.ofNat 16 a.toNat) x.tcp }
        rsp := some { status := .ok, result := 0 } } := by
  have fit16 : fits 16 a = true := (fits_eq_true_iff 16 a).2 (by omega)
  simp [setPort, State.valid, State.mapTcpBank, bank, fit16, respond_eq]

theorem setPort_of_wide (wide : 0xFFFF < a.toNat) : setPort a put s = .next (faulted s .fieldOverflowError) := by
  have unfit : fits 16 a = false := (fits_eq_false_iff 16 a).2 (by omega)
  simp [setPort, State.valid, bank, unfit, raise_eq]

end PortSetters

/-- Settles O35: both setters check the same operand, and each writes its own port. -/
theorem portSettersWriteThePort : Obligations.PortSettersWriteThePort := by
  refine fun s x a bank => ⟨fun fit => ⟨?_, ?_⟩, fun wide => ⟨?_, ?_⟩⟩
  · exact (exec_setSport a s).trans (setPort_of_fits _ bank fit)
  · exact (exec_setDport a s).trans (setPort_of_fits _ bank fit)
  · exact (exec_setSport a s).trans (setPort_of_wide _ bank wide)
  · exact (exec_setDport a s).trans (setPort_of_wide _ bank wide)

end Sys2Proof.Machine
end

section
/-! ### What a transport BUILD emits: the total length (O51), and twice in a row (O52) -/

namespace Sys2Proof.Machine

/-! #### The total length -/

/-- A transport BUILD computes the IP bank, and emits its header, for the length of what it emits behind the header; the
total fits (R186, R214, R233). -/
theorem Succeeds.emits_behind_header {s u : State} {c : Ctx} {len v : Word} (h : Succeeds s (buildOf c len) v u)
    (transport : c ≠ .ip) {b : IpBank} (bank : s.ipBank c = some b) :
    ∃ rest, u.ipBank c = some (builtIp b rest.length) ∧ u.mem.out = wireIp (emittedIp b rest.length) ++ rest ∧
      ipTotal b rest.length ≤ 0xFFFF := by
  cases c with
  | ip => exact absurd rfl transport
  | tcp =>
    cases h with
    | buildTcp x standing _ _ _ totalFits =>
      rw [State.ipBank, standing] at bank
      cases bank
      refine ⟨wireTcp (builtTcp x s.mem.tcpPay) ++ s.mem.tcpPay, ?_⟩
      simpa [State.ipBank] using totalFits
  | icmp =>
    cases h with
    | buildIcmp x standing _ totalFits =>
      rw [State.ipBank, standing] at bank
      cases bank
      refine ⟨wireIcmp (builtIcmp x.icmp s.mem.icmpPay) ++ s.mem.icmpPay, ?_⟩
      simpa [State.ipBank] using totalFits
  | ping =>
    cases h with
    | buildPing x m standing _ totalFits =>
      rw [State.ipBank, standing] at bank
      cases bank
      refine ⟨wireIcmp (builtIcmp m s.mem.pingPay) ++ s.mem.pingPay, ?_⟩
      simpa [State.ipBank] using totalFits

/-- A total length that fits is left as it is computed (R161). -/
theorem builtIp_totlen {b : IpBank} {n : Nat} (fit : ipTotal b n ≤ 0xFFFF) :
    (builtIp b n).totlen.toNat = ipTotal b n :=
  Nat.mod_eq_of_lt (Nat.lt_succ_of_le fit)

/-- Bytes 2 and 3 of what begins with a header are its total length (R153). -/
theorem bitsAt_wireIp_totlen (b : IpBank) (rest : List Byte) : bitsAt (wireIp b ++ rest) 16 16 = b.totlen.toNat :=
  calc
    bitsAt (wireIp b ++ rest) 16 16 = bitsAt (wireIp b) 16 16 := bitsAt_append_left rest (by simp)
    _ = (b.read .totlen).toNat := bitsAt_wireIp b (r := .totlen) rfl
    _ = b.totlen.toNat := BitVec.toNat_setWidth_of_le (by decide)

/-- Settles O51: with `IHL` 5 the total length counts the 20 bytes of the header and the bytes behind it (R187). -/
theorem totalLengthIsOutLength : Obligations.TotalLengthIsOutLength := by
  intro s t c len b transport bank ihl h ok
  obtain ⟨v, u, hu, rfl⟩ := succeeds_of_isOk h ok
  obtain ⟨rest, after, out, fit⟩ := hu.emits_behind_header transport bank
  have total : (builtIp b rest.length).totlen.toNat = u.mem.out.length :=
    calc
      (builtIp b rest.length).totlen.toNat = b.ihl.toNat * 4 + rest.length := builtIp_totlen fit
      _ = 20 + rest.length := by rw [ihl]; rfl
      _ = u.mem.out.length := by rw [out, List.length_append, wireIp_length]
  exact ⟨_, after, total, out ▸ bitsAt_wireIp_totlen (emittedIp b rest.length) rest⟩

/-! #### A second build -/

/-- The two bytes of the identification and the two of the header checksum stand at 4, 5, 10 and 11 (R153). -/
theorem getElem?_wireIp_of_ne (b : IpBank) (ident hcsum : BitVec 16) {i : Nat} (h : i ∉ [4, 5, 10, 11]) :
    (wireIp { b with ident := ident, hcsum := hcsum })[i]? = (wireIp b)[i]? := by
  match i with
  | 4 | 5 | 10 | 11 => exact absurd h (by decide)
  | 0 | 1 | 2 | 3 | 6 | 7 | 8 | 9 | _ + 12 => rfl

/-- Command `i` succeeds in state `t` and builds again what stands there: OUT keeps its length and its bytes but 4, 5,
10 and 11, and register `r` of context `c` keeps its value (R190). -/
def Repeats (i : Instr) (c : Ctx) (r : Reg) (t : State) : Prop :=
  ∃ u, exec i t = .next u ∧ u.isOk ∧ u.mem.out.length = t.mem.out.length ∧ u.readField c r = t.readField c r ∧
    ∀ j, j ∉ [4, 5, 10, 11] → u.mem.out[j]? = t.mem.out[j]?

/-- A build repeats the one before if it emits, behind the header of the bank that one left, the same bytes: the two
headers differ in identification and header checksum alone (R155, R161). -/
theorem repeats_of_header {i : Instr} {c : Ctx} {r : Reg} {t u : State} {b : IpBank} {n : Nat} {rest : List Byte}
    (h : exec i t = .next u) (ok : u.isOk) (kept : u.readField c r = t.readField c r)
    (first : t.mem.out = wireIp (emittedIp b n) ++ rest)
    (second : u.mem.out = wireIp (emittedIp (builtIp b n) n) ++ rest) : Repeats i c r t := by
  refine ⟨u, h, ok, by simp [first, second], kept, fun j other => ?_⟩
  have header : (wireIp (emittedIp (builtIp b n) n))[j]? = (wireIp (emittedIp b n))[j]? :=
    getElem?_wireIp_of_ne (emittedIp b n) _ _ other
  rw [first, second]
  obtain inHeader | behind := Nat.lt_or_ge j 20
  · rwa [List.getElem?_append_left inHeader, List.getElem?_append_left inHeader]
  · rw [List.getElem?_append_right behind, List.getElem?_append_right behind, wireIp_length, wireIp_length]

/-! ##### BUILD.TCP -/

/-- The TCP checksum covers no register a build changes, and itself as 0 (R185, R190). -/
theorem builtTcp_of_built (x : TcpContext) (n : Nat) (p : List Byte) :
    builtTcp { ip := builtIp x.ip n, tcp := builtTcp x p } p = builtTcp x p := by
  simp only [builtTcp, builtIp, emittedIp]

/-- No check reads a register a build changes (R186). -/
theorem tcpPrecheck_of_built (x : TcpContext) (m n : Nat) (p : List Byte) :
    tcpPrecheck { ip := builtIp x.ip m, tcp := builtTcp x p } n = tcpPrecheck x n := by
  obtain ⟨sum, checksum⟩ : ∃ sum, builtTcp x p = { x.tcp with tcsum := sum } := ⟨_, rfl⟩
  rw [checksum]
  rfl

/-- What a successful BUILD.TCP leaves (R186). -/
theorem exec_buildTcp_leaves {s t : State} (h : exec .buildTcp s = .next t) (ok : t.isOk) :
    ∃ x : TcpContext,
      t.tcp = some { ip := builtIp x.ip (20 + t.mem.tcpPay.length), tcp := builtTcp x t.mem.tcpPay } ∧
      t.mem.out = wireIp (emittedIp x.ip (20 + t.mem.tcpPay.length)) ++
        (wireTcp (builtTcp x t.mem.tcpPay) ++ t.mem.tcpPay) ∧
      tcpPrecheck x t.mem.tcpPay.length = none := by
  obtain ⟨v, u, hu, rfl⟩ := succeeds_of_isOk h ok
  cases hu with
  | buildTcp x _ noOptions segFits payFits totalFits =>
    exact ⟨x, rfl, List.append_assoc .., (tcpPrecheck_none_iff x _).2 ⟨noOptions, segFits, payFits, totalFits⟩⟩

theorem buildTcp_repeats {s t : State} (h : exec .buildTcp s = .next t) (ok : t.isOk) :
    Repeats .buildTcp .tcp (.tcp .tcsum) t := by
  obtain ⟨x, bank, out, passes⟩ := exec_buildTcp_leaves h ok
  have again := exec_buildTcp_of_passes bank ((tcpPrecheck_of_built ..).trans passes)
  refine repeats_of_header again ⟨_, rfl⟩ ?_ out ?_
  · simp only [State.readField, State.tcpBank, bank, Option.map_some, builtTcp_of_built]
  · simp only [builtTcp_of_built, List.append_assoc]

/-! ##### BUILD.ICMP -/

/-- The ICMP checksum covers itself as 0 (R213). -/
theorem builtIcmp_of_built (b : IcmpBank) (p : List Byte) : builtIcmp (builtIcmp b p) p = builtIcmp b p := by
  simp only [builtIcmp]

theorem ipPrecheck_of_built (b : IpBank) (m n : Nat) : ipPrecheck (builtIp b m) n = ipPrecheck b n := rfl

/-- A BUILD.ICMP that passes the checks of R154. -/
theorem exec_buildIcmp_of_passes {s : State} {x : IcmpContext} (bank : s.icmp = some x)
    (passes : ipPrecheck x.ip (8 + s.mem.icmpPay.length) = none) :
    exec .buildIcmp s = .next
      { s with
        icmp := some { ip := builtIp x.ip (8 + s.mem.icmpPay.length), icmp := builtIcmp x.icmp s.mem.icmpPay }
        mem := { s.mem with
          out := wireIp (emittedIp x.ip (8 + s.mem.icmpPay.length)) ++ wireIcmp (builtIcmp x.icmp s.mem.icmpPay) ++
            s.mem.icmpPay }
        rsp := some { status := .ok, result := BitVec.ofNat 32 (28 + s.mem.icmpPay.length) } } := by
  obtain ⟨payFits, -⟩ := (ipPrecheck_none_iff x.ip _).1 passes
  have answer : lengthWord (20 + 8 + s.mem.icmpPay.length) = BitVec.ofNat 32 (28 + s.mem.icmpPay.length) :=
    lengthWord_of_lt _ (by omega)
  simp [exec, execBuildIcmp, bank, passes, icmpBuild_eq, respond_eq, State.setBuf, ← Nat.add_assoc, answer]

/-- What a successful BUILD.ICMP leaves (R214). -/
theorem exec_buildIcmp_leaves {s t : State} (h : exec .buildIcmp s = .next t) (ok : t.isOk) :
    ∃ x : IcmpContext,
      t.icmp = some { ip := builtIp x.ip (8 + t.mem.icmpPay.length), icmp := builtIcmp x.icmp t.mem.icmpPay } ∧
      t.mem.out = wireIp (emittedIp x.ip (8 + t.mem.icmpPay.length)) ++
        (wireIcmp (builtIcmp x.icmp t.mem.icmpPay) ++ t.mem.icmpPay) ∧
      ipPrecheck x.ip (8 + t.mem.icmpPay.length) = none := by
  obtain ⟨v, u, hu, rfl⟩ := succeeds_of_isOk h ok
  cases hu with
  | buildIcmp x _ payFits totalFits => exact ⟨x, rfl, rfl, (ipPrecheck_none_iff x.ip _).2 ⟨payFits, totalFits⟩⟩

theorem buildIcmp_repeats {s t : State} (h : exec .buildIcmp s = .next t) (ok : t.isOk) :
    Repeats .buildIcmp .icmp (.icmp .icsum) t := by
  obtain ⟨x, bank, out, passes⟩ := exec_buildIcmp_leaves h ok
  have again := exec_buildIcmp_of_passes bank ((ipPrecheck_of_built ..).trans passes)
  refine repeats_of_header again ⟨_, rfl⟩ ?_ out ?_
  · simp only [State.readField, State.icmpBank, bank, Option.map_some, builtIcmp_of_built]
  · simp only [builtIcmp_of_built, List.append_assoc]

/-- Settles O52: the second build passes the same checks, computes the same checksum and emits another header alone. -/
theorem secondBuildDiffersInIdAndChecksumOnly : Obligations.SecondBuildDiffersInIdAndChecksumOnly :=
  fun _ _ ok => ⟨fun h => buildTcp_repeats h ok, fun h => buildIcmp_repeats h ok⟩

end Sys2Proof.Machine
end

section
/-! ### The ICMP message builder: CONSTRUCT.ICMP and BUILD.ICMP (O27, O31) -/

namespace Sys2Proof.Machine

/-- Settles O31: the checks of R154 pass, or refuse a length of the message or of the datagram. -/
theorem buildIcmpEmitsTheMessage : Obligations.BuildIcmpEmitsTheMessage := by
  refine fun s x bank => ⟨fun fitsAll => ?_, fun long => ?_⟩
  · exact exec_buildIcmp_of_passes bank ((ipPrecheck_none_iff x.ip _).2 fitsAll)
  · have overflow := (not_and_or.1 long).imp lt_of_not_ge lt_of_not_ge
    simp only [exec, execBuildIcmp, bank, ipPrecheck_of_overflow overflow, raise_eq]

/-- Settles O27: the recognized types are the operands of R93, and the banks are those of R151 and R210. -/
theorem constructIcmpWritesBothBanks : Obligations.ConstructIcmpWritesBothBanks := by
  refine fun s a => ⟨fun recognized => ?_, fun other => ?_⟩
  · simp only [exec, execConstructIcmp, isIcmpType, recognized, decide_true, if_true, respond_eq, ipInit,
      icmpInit, State.setBuf, setBuf_icmpPay, BitVec.ofNat_toNat]
  · simp only [exec, execConstructIcmp, isIcmpType, other, decide_false, Bool.false_eq_true, if_false, raise_eq]

end Sys2Proof.Machine
end

section
/-! ### The Ping specialisation: CONSTRUCT.PING and BUILD.PING (O28, O32), the sequence number over a run of builds (O54),
and the first build after construction (O55) -/

namespace Sys2Proof.Machine

/-! #### `OPTION` as identifier and sequence number (R231) -/

/-- The identifier stays and the sequence number goes on by 1 modulo 2^16 (R233, R234). -/
theorem nextEcho_toNat (o : BitVec 32) :
    (nextEcho o).toNat = o.toNat / 2 ^ 16 * 2 ^ 16 + (o.toNat % 2 ^ 16 + 1) % 2 ^ 16 := by
  have := o.isLt
  rw [nextEcho, toNat_pack]
  simp [Nat.shiftRight_eq_div_pow]
  omega

theorem nextEcho_eq_ofNat (o : BitVec 32) :
    nextEcho o = BitVec.ofNat 32 (o.toNat / 2 ^ 16 * 2 ^ 16 + (o.toNat % 2 ^ 16 + 1) % 2 ^ 16) := by
  rw [← nextEcho_toNat, BitVec.ofNat_toNat, BitVec.setWidth_eq]

/-- What CONSTRUCT.PING writes to `OPTION`: the identifier, and sequence number 0 (R230). -/
theorem echoStart_toNat {a : Word} (fit : a.toNat ≤ 0xFFFF) :
    (a.setWidth 16 ++ (0 : BitVec 16)).toNat = a.toNat * 2 ^ 16 := by
  rw [toNat_pack, BitVec.toNat_setWidth, Nat.mod_eq_of_lt (by omega)]
  exact Nat.add_zero _

/-- Settles O28: an identifier of 16 bits stands in the high half of `OPTION`, and the low half is 0. -/
theorem constructPingWritesBothBanks : Obligations.ConstructPingWritesBothBanks := by
  refine fun s a => ⟨fun fit => ?_, fun wide => ?_⟩
  · have option : a.setWidth 16 ++ (0 : BitVec 16) = BitVec.ofNat 32 (a.toNat * 2 ^ 16) := by
      rw [← echoStart_toNat fit, BitVec.ofNat_toNat, BitVec.setWidth_eq]
    have legal : fits 16 a = true := (fits_eq_true_iff 16 a).2 (by omega)
    simp only [exec, execConstructPing, legal, if_true, respond_eq, ipInit, icmpInit, option, State.setBuf,
      setBuf_pingPay]
  · have illegal : fits 16 a = false := (fits_eq_false_iff 16 a).2 (by omega)
    simp only [exec, execConstructPing, illegal, Bool.false_eq_true, if_false, raise_eq]

/-! #### BUILD.PING -/

/-- The bank whose message BUILD.PING emits, its checksum not yet computed: the one that stands, with the next `OPTION`
(R233). -/
def advanced (b : IcmpBank) : IcmpBank := { b with option := nextEcho b.option }

/-- A BUILD.PING that passes the checks of R154. -/
theorem exec_buildPing_of_passes {s : State} {x : IcmpContext} (bank : s.ping = some x)
    (passes : ipPrecheck x.ip (8 + s.mem.pingPay.length) = none) :
    exec .buildPing s = .next
      { s with
        ping := some
          { ip := builtIp x.ip (8 + s.mem.pingPay.length), icmp := builtIcmp (advanced x.icmp) s.mem.pingPay }
        mem := { s.mem with
          out := wireIp (emittedIp x.ip (8 + s.mem.pingPay.length)) ++
            wireIcmp (builtIcmp (advanced x.icmp) s.mem.pingPay) ++ s.mem.pingPay }
        rsp := some { status := .ok, result := BitVec.ofNat 32 (28 + s.mem.pingPay.length) } } := by
  obtain ⟨payFits, -⟩ := (ipPrecheck_none_iff x.ip _).1 passes
  have answer : lengthWord (20 + 8 + s.mem.pingPay.length) = BitVec.ofNat 32 (28 + s.mem.pingPay.length) :=
    lengthWord_of_lt _ (by omega)
  simp [exec, execBuildPing, bank, passes, icmpBuild_eq, respond_eq, State.setBuf, ← Nat.add_assoc, answer, advanced]

/-- Settles O32: the checks of R154 pass, or refuse a length before `OPTION` is advanced. -/
theorem buildPingAdvancesAndEmits : Obligations.BuildPingAdvancesAndEmits := by
  refine fun s x bank => ⟨fun fitsAll => ?_, fun long => ?_⟩
  · rw [← nextEcho_eq_ofNat]
    exact exec_buildPing_of_passes bank ((ipPrecheck_none_iff x.ip _).2 fitsAll)
  · have overflow := (not_and_or.1 long).imp lt_of_not_ge lt_of_not_ge
    simp only [exec, execBuildPing, bank, ipPrecheck_of_overflow overflow, raise_eq]

/-! #### The sequence number over a run of builds -/

/-- Context PING is constructed with `OPTION` `o`, and BUILD.PING passes its checks. -/
def ReadyToPing (s : State) (o : BitVec 32) : Prop :=
  ∃ x, s.ping = some x ∧ x.icmp.option = o ∧ ipPrecheck x.ip (8 + s.mem.pingPay.length) = none

/-- Behind the IPv4 header every register of an ICMP bank stands at its wire position (R212). -/
theorem bitsAt_message (e : IpBank) (b : IcmpBank) (p : List Byte) {r : IcmpReg} {first : Nat}
    (position : (Reg.icmp r).wireBit = some first) :
    bitsAt (wireIp e ++ (wireIcmp b ++ p)) first r.width = (b.read r).toNat := by
  obtain ⟨behind, within⟩ := IcmpReg.wireBit_within position
  rw [bitsAt_wireIp_append e p behind within, bitsAt_wireIcmp b position]

/-- A BUILD.PING presented by the host advances `OPTION`, emits it, and the next one passes the same checks. -/
theorem step_buildPing_of_ready {s : State} {o : BitVec 32} {rest : List HostEvent}
    (hh : s.host = .command 0x11030000 0 :: rest) (ready : ReadyToPing s o) :
    ∃ t, step s = .next t ∧ t.host = rest ∧ ReadyToPing t (nextEcho o) ∧
      bitsAt t.mem.out 192 32 = (nextEcho o).toNat := by
  obtain ⟨x, bank, rfl, passes⟩ := ready
  have word : decode 0x11030000 0 = .ok .buildPing := rfl
  simp only [step, hh, word]
  refine ⟨_, exec_buildPing_of_passes (s := s.accept rest) bank passes, rfl,
    ⟨_, rfl, rfl, (ipPrecheck_of_built ..).trans passes⟩, ?_⟩
  rw [List.append_assoc]
  exact bitsAt_message _ _ _ (r := .option) rfl

/-- `n` builds of context PING advance `OPTION` `n` times.  OUT carries the `OPTION` that stands, once a build has
emitted it. -/
theorem run_buildPing_option (n : Nat) (s : State) (o : BitVec 32)
    (hh : s.host = List.replicate n (.command 0x11030000 0)) (ready : ReadyToPing s o) :
    ∃ t, Host.Core.run Sys2Proof.core n s = .next t ∧ ReadyToPing t (nextEcho^[n] o) ∧
      (bitsAt s.mem.out 192 32 = o.toNat ∨ 0 < n → bitsAt t.mem.out 192 32 = (nextEcho^[n] o).toNat) := by
  induction n generalizing s o with
  | zero => exact ⟨s, rfl, ready, fun h => h.resolve_right (Nat.lt_irrefl 0)⟩
  | succ n ih =>
    obtain ⟨u, hstep, hrest, readyNext, emitted⟩ := step_buildPing_of_ready hh ready
    obtain ⟨t, hrun, readyLast, carried⟩ := ih u (nextEcho o) hrest readyNext
    exact ⟨t, (run_succ_of_step (M := Sys2Proof.core) hstep n).trans hrun, readyLast, fun _ => carried (.inl emitted)⟩

/-- Advancing `n` times adds `n` to the sequence number modulo 2^16 and leaves the identifier (R231, R234). -/
theorem nextEcho_iterate (n : Nat) (o : BitVec 32) :
    (nextEcho^[n] o).toNat / 2 ^ 16 = o.toNat / 2 ^ 16 ∧
      (nextEcho^[n] o).toNat % 2 ^ 16 = (o.toNat + n) % 2 ^ 16 := by
  induction n generalizing o with
  | zero => exact ⟨rfl, rfl⟩
  | succ n ih =>
    obtain ⟨ident, seq⟩ := ih (nextEcho o)
    rw [Function.iterate_succ_apply, ident, seq, nextEcho_toNat]
    omega

/-- Settles O54: the `OPTION` left is the one before, advanced `n` times. -/
theorem pingSequenceWrapsOverBuilds : Obligations.PingSequenceWrapsOverBuilds := by
  intro n s x bank payFits totalFits
  obtain ⟨t, hrun, ⟨x', bank', option, -⟩, carried⟩ :=
    run_buildPing_option n { s with host := List.replicate n (.command 0x11030000 0) } x.icmp.option rfl
      ⟨x, bank, rfl, (ipPrecheck_none_iff x.ip _).2 ⟨payFits, totalFits⟩⟩
  obtain ⟨ident, seq⟩ := nextEcho_iterate n x.icmp.option
  rw [← option] at ident seq carried
  exact ⟨t, x', hrun, bank', ident, seq, fun h => carried (.inr h)⟩

/-! #### The first build after construction -/

/-- Between CONSTRUCT.PING and BUILD.PING the one register of Ping's ICMP bank a command can change is `CODE` (R36). -/
theorem Succeeds.pingBank {i : Instr} {s u : State} {v : Word} (h : Succeeds s i v u)
    (notCode : ∀ w, i ≠ .wrf .ping (.icmp .code) w) (notConstructs : ¬ i.constructs .ping) (notBuild : i ≠ .buildPing) :
    u.icmpBank .ping = s.icmpBank .ping := by
  cases h with
  | csum | rdf | ldb | getLen | clr | push | setPay | setSport | setDport | constructIp | constructTcp
  | constructIcmp | buildIp | buildTcp | buildIcmp => rfl
  | setSrc | setDst => exact icmpBank_mapIpBank ..
  | constructPing => exact absurd rfl notConstructs
  | buildPing => exact absurd rfl notBuild
  | wrf c r v writable =>
    cases r with
    | ip r => exact icmpBank_mapIpBank ..
    | tcp r => cases c <;> rfl
    | icmp r =>
      cases c with
      | ip | tcp | icmp => rfl
      | ping =>
        cases r with
        | code => exact absurd rfl (notCode v)
        | icmpType | icsum | option => exact absurd writable (by decide)

/-- A run of commands, from its first one. -/
theorem runCommands_cons_next_iff {i : Instr} {is : List Instr} {s u : State} :
    runCommands (i :: is) s = .next u ↔ ∃ t, exec i s = .next t ∧ runCommands is t = .next u := by
  rw [runCommands]
  cases exec i s with
  | next t => simp
  | fault r => simp
  | refused r => simp

/-- Commands among which none writes `CODE` of PING, none constructs PING and no BUILD.PING succeeds leave Ping's ICMP
bank as it is. -/
theorem runCommands_pingBank {is : List Instr} {s u : State} (h : runCommands is s = .next u)
    (allowed : ∀ i ∈ is, (∀ w, i ≠ .wrf .ping (.icmp .code) w) ∧ ¬ i.constructs .ping)
    (notBuilt : ∀ before after w, is = before ++ .buildPing :: after →
      runCommands (before ++ [.buildPing]) s = .next w → ¬ w.isOk) :
    u.icmpBank .ping = s.icmpBank .ping := by
  induction is generalizing s with
  | nil => cases h; rfl
  | cons i is ih =>
    obtain ⟨t, ht, hrest⟩ := runCommands_cons_next_iff.1 h
    have rest : u.icmpBank .ping = t.icmpBank .ping := by
      refine ih hrest (fun j hj => allowed j (.tail i hj)) fun before after w split hw => ?_
      exact notBuilt (i :: before) after w (by rw [split]; rfl) (runCommands_cons_next_iff.2 ⟨t, ht, hw⟩)
    obtain ⟨notCode, notConstructs⟩ := allowed i (.head is)
    obtain ⟨e, -, rfl⟩ | ⟨v, x, hx, rfl⟩ := exec_next_cases ht
    · exact rest
    · refine rest.trans (hx.pingBank notCode notConstructs ?_)
      rintro rfl
      exact notBuilt [] is _ rfl (runCommands_cons_next_iff.2 ⟨_, ht, rfl⟩) ⟨v, rfl⟩

/-- The two halves of `OPTION` stand behind the IPv4 header as identifier and sequence number (R231). -/
theorem bitsAt_message_halves (e : IpBank) (b : IcmpBank) (p : List Byte) :
    bitsAt (wireIp e ++ (wireIcmp b ++ p)) 192 16 = b.option.toNat / 2 ^ 16 ∧
      bitsAt (wireIp e ++ (wireIcmp b ++ p)) 208 16 = b.option.toNat % 2 ^ 16 := by
  have := b.option.isLt
  rw [bitsAt_wireIp_append e p (by decide) (by simp), bitsAt_wireIp_append e p (by decide) (by simp)]
  constructor <;> simp [bitsAt, bytesNat, wireIcmp, natByte] <;> omega

/-- The message a successful BUILD.PING emits behind the IPv4 header: type and code as they stand, the next `OPTION`, and
the payload (R233). -/
theorem Succeeds.emits_ping {s u : State} {v : Word} {b : IcmpBank} (h : Succeeds s .buildPing v u)
    (bank : s.icmpBank .ping = some b) :
    ∃ e m, u.mem.out = wireIp e ++ (wireIcmp m ++ s.mem.pingPay) ∧
      m.icmpType = b.icmpType ∧ m.code = b.code ∧ m.option = nextEcho b.option := by
  cases h with
  | buildPing x m standing _ _ next =>
    rw [State.icmpBank, standing] at bank
    cases bank
    subst next
    exact ⟨_, _, rfl, rfl, rfl, rfl⟩

/-- What CONSTRUCT.PING leaves in Ping's ICMP bank (R230). -/
theorem pingBank_of_constructed {s t : State} {a : Word} (fit : a.toNat ≤ 0xFFFF)
    (h : exec (.constructPing a) s = .next t) :
    ∃ b, t.icmpBank .ping = some b ∧ b.icmpType = 8 ∧ b.code = 0 ∧ b.option.toNat = a.toNat * 2 ^ 16 := by
  have constructed := (constructPingWritesBothBanks s a).1 fit
  rw [h] at constructed
  cases constructed
  exact ⟨_, rfl, rfl, rfl, Nat.mod_eq_of_lt (by omega)⟩

/-- Settles O55: the bank construction leaves stands until the first successful build, which advances its sequence number
from 0 to 1. -/
theorem firstPingCarriesSequenceOne : Obligations.FirstPingCarriesSequenceOne := by
  intro s t u v a between fit constructed run allowed notBuilt built ok
  obtain ⟨b, bank, type, code, option⟩ := pingBank_of_constructed fit constructed
  obtain ⟨_, w, hw, rfl⟩ := succeeds_of_isOk built ok
  obtain ⟨e, m, out, sentType, sentCode, sentOption⟩ :=
    hw.emits_ping ((runCommands_pingBank run allowed notBuilt).trans bank)
  obtain ⟨ident, seq⟩ := bitsAt_message_halves e m u.mem.pingPay
  rw [sentOption, nextEcho_toNat, option] at ident seq
  show bitsAt w.mem.out 160 8 = 8 ∧ bitsAt w.mem.out 168 8 = 0 ∧ bitsAt w.mem.out 192 16 = a.toNat ∧
    bitsAt w.mem.out 208 16 = 1 ∧ w.mem.out.drop 28 = u.mem.pingPay
  rw [out]
  refine ⟨?_, ?_, by omega, by omega, rfl⟩
  · calc
      _ = (m.read .icmpType).toNat := bitsAt_message e m _ (r := .icmpType) rfl
      _ = 8 := by rw [IcmpBank.read, sentType, type]; rfl
  · calc
      _ = (m.read .code).toNat := bitsAt_message e m _ (r := .code) rfl
      _ = 0 := by rw [IcmpBank.read, sentCode, code]; rfl

end Sys2Proof.Machine
end

section
/-! ### Faults (60_exceptions.md: O7, O10, O11, O12)

`exec_ends` says that a command which does not succeed faults and changes nothing.  `MayRaise` adds which faults: the
column 'raised by' of R250, with NotConstructed and IllegalCommand tied to their causes. -/

namespace Sys2Proof.Machine

/-! #### No run stops -/

theorem exec_exists_next (i : Instr) (s : State) : ∃ t, exec i s = .next t := by
  obtain ⟨e, -, h⟩ | ⟨v, u, -, h⟩ := exec_ends i s
  · exact ⟨_, h⟩
  · exact ⟨_, h⟩

theorem step_exists_next (s : State) : ∃ t, step s = .next t := by
  unfold step
  split
  · exact ⟨_, rfl⟩
  · exact ⟨_, rfl⟩
  · exact ⟨_, rfl⟩
  · split
    · exact exec_exists_next _ _
    · exact ⟨_, raise_eq _ _⟩

/-- Settles O7, by induction on the length of the run: every step has a next state. -/
theorem noRunEverStops : Obligations.NoRunEverStops := by
  intro n
  induction n with
  | zero => exact fun s => ⟨s, rfl⟩
  | succ n ih =>
    intro s
    obtain ⟨u, hstep⟩ := step_exists_next s
    obtain ⟨t, hrun⟩ := ih u
    exact ⟨t, (run_succ_of_step (M := Sys2Proof.core) hstep n).trans hrun⟩

/-! #### A fault changes nothing -/

theorem exec_faulted {i : Instr} {s t : State} {q : Response} (h : exec i s = .next t) (answer : t.rsp = some q)
    (fault : q.status ≠ .ok) : t = faulted s q.status := by
  obtain ⟨e, -, rfl⟩ | ⟨v, u, -, rfl⟩ := exec_next_cases h <;> cases answer
  · rfl
  · exact absurd rfl fault

/-- Settles O10: refused words fault in the step itself, and decoded words fault as their command does. -/
theorem faultChangesNothing : Obligations.FaultChangesNothing := by
  refine ⟨fun i s t q => exec_faulted, fun s t cmd arg rest q presented h answer fault => ?_⟩
  cases decoded : decode cmd arg with
  | ok i => exact (exec_faulted ((step_of_decode_ok presented decoded).symm.trans h) answer fault :)
  | error e =>
    cases (step_of_decode_error presented decoded).symm.trans h
    cases answer
    rfl

/-! #### Which faults a command may raise -/

/-- `MayRaise s i e`: fault `e` is one the spec lets command `i` answer in state `s` (R250): NotConstructed by its cause
(R254), IllegalCommand by the lack of an encoding (log entry 9), every other fault by the commands of its row. -/
inductive MayRaise (s : State) : Instr → Status → Prop
  | notConstructed {i c} (named : i.context = some c) (notConstructs : ¬ i.constructs c) (absent : s.valid c = false) :
      MayRaise s i .notConstructed
  | notWf {i} (notWf : i.wf = false) : MayRaise s i .illegalCommand
  | constructIp (a) : MayRaise s (.constructIp a) .constructionError
  | constructIcmp (a) : MayRaise s (.constructIcmp a) .constructionError
  | setSrc (c) : MayRaise s (.setSrc c) .addressFormatError
  | setDst (c) : MayRaise s (.setDst c) .addressFormatError
  | options : MayRaise s .buildTcp .unsupportedFeatureError
  | wrf (c r v) : MayRaise s (.wrf c r v) .fieldOverflowError
  | setSport (a) : MayRaise s (.setSport a) .fieldOverflowError
  | setDport (a) : MayRaise s (.setDport a) .fieldOverflowError
  | pushWide (a) : MayRaise s (.push a) .fieldOverflowError
  | constructPing (a) : MayRaise s (.constructPing a) .fieldOverflowError
  | build (c len) : MayRaise s (buildOf c len) .fieldOverflowError
  | pushFull (a) : MayRaise s (.push a) .bufferRangeError
  | ldb (b a) : MayRaise s (.ldb b a) .bufferRangeError
  | setPay (c) : MayRaise s (.setPay c) .bufferRangeError

/-- Outcome `o` of command `i`, if it is a fault at `s`, is one `i` may raise there. -/
def FaultsAllowed (i : Instr) (s : State) (o : Host.Outcome State Fault Refusal) : Prop :=
  ∀ e, e ≠ .ok → o = .next (faulted s e) → MayRaise s i e

theorem faultsAllowed_respond (i : Instr) (s : State) (v : Word) (u : State) : FaultsAllowed i s (respond v u) := by
  intro e fault h
  have answer := congrArg State.rsp ((respond_next_iff v u _).1 h)
  cases answer
  exact absurd rfl fault

theorem MayRaise.faultsAllowed {i : Instr} {s : State} {e : Status} (h : MayRaise s i e) :
    FaultsAllowed i s (raise e s) := by
  intro e' _ h'
  cases h'
  exact h

theorem faultsAllowed_ite {i : Instr} {s : State} {p : Prop} [Decidable p] {a b : Host.Outcome State Fault Refusal}
    (ha : FaultsAllowed i s a) (hb : FaultsAllowed i s b) : FaultsAllowed i s (if p then a else b) := by
  split
  · exact ha
  · exact hb

theorem mayRaise_of_ipPrecheck {b : IpBank} {n : Nat} {e : Status} (h : ipPrecheck b n = some e) (s : State) (c : Ctx)
    (len : Word) : MayRaise s (buildOf c len) e := by
  obtain ⟨rfl, -⟩ := ipPrecheck_some b n e h
  exact .build c len

theorem mayRaise_of_tcpPrecheck {x : TcpContext} {n : Nat} {e : Status} (h : tcpPrecheck x n = some e) (s : State) :
    MayRaise s .buildTcp e := by
  obtain ⟨-, h'⟩ | ⟨-, -, h'⟩ | ⟨-, -, h'⟩ := tcpPrecheck_cases x n <;> rw [h'] at h
  · cases h; exact .options
  · cases h; exact .build .tcp 0
  · exact mayRaise_of_ipPrecheck h s .tcp 0

/-! #### The faults of each command -/

theorem execBuildIp_faultsAllowed (len : Word) (s : State) : FaultsAllowed (.buildIp len) s (execBuildIp len s) := by
  unfold execBuildIp
  split
  next absent => exact (MayRaise.notConstructed (c := .ip) rfl id (by simp [State.valid, absent])).faultsAllowed
  next =>
    split
    next refused => exact (mayRaise_of_ipPrecheck refused s .ip len).faultsAllowed
    next => exact faultsAllowed_respond _ s _ _

theorem execBuildTcp_faultsAllowed (s : State) : FaultsAllowed .buildTcp s (execBuildTcp s) := by
  unfold execBuildTcp
  split
  next absent => exact (MayRaise.notConstructed (c := .tcp) rfl id (by simp [State.valid, absent])).faultsAllowed
  next =>
    split
    next refused => exact (mayRaise_of_tcpPrecheck refused s).faultsAllowed
    next => exact faultsAllowed_respond _ s _ _

theorem execBuildIcmp_faultsAllowed (s : State) : FaultsAllowed .buildIcmp s (execBuildIcmp s) := by
  unfold execBuildIcmp
  split
  next absent => exact (MayRaise.notConstructed (c := .icmp) rfl id (by simp [State.valid, absent])).faultsAllowed
  next =>
    split
    next refused => exact (mayRaise_of_ipPrecheck refused s .icmp 0).faultsAllowed
    next => exact faultsAllowed_respond _ s _ _

theorem execBuildPing_faultsAllowed (s : State) : FaultsAllowed .buildPing s (execBuildPing s) := by
  unfold execBuildPing
  split
  next absent => exact (MayRaise.notConstructed (c := .ping) rfl id (by simp [State.valid, absent])).faultsAllowed
  next =>
    split
    next refused => exact (mayRaise_of_ipPrecheck refused s .ping 0).faultsAllowed
    next => exact faultsAllowed_respond _ s _ _

theorem setAddress_faultsAllowed {i : Instr} {c : Ctx} {put : Word → IpBank → IpBank} {s : State}
    (named : i.context = some c) (notConstructs : ¬ i.constructs c) (malformed : MayRaise s i .addressFormatError) :
    FaultsAllowed i s (setAddress c put s) := by
  obtain ⟨absent, h⟩ | ⟨-, -, h⟩ | ⟨a, -, -, h⟩ := setAddress_cases c put s <;> rw [h]
  · exact (MayRaise.notConstructed named notConstructs absent).faultsAllowed
  · exact malformed.faultsAllowed
  · exact faultsAllowed_respond i s _ _

theorem setPort_faultsAllowed {i : Instr} {a : Word} {put : BitVec 16 → TcpBank → TcpBank} {s : State}
    (named : i.context = some .tcp) (notConstructs : ¬ i.constructs .tcp) (wide : MayRaise s i .fieldOverflowError) :
    FaultsAllowed i s (setPort a put s) := by
  obtain ⟨absent, h⟩ | ⟨-, -, h⟩ | ⟨-, -, h⟩ := setPort_cases a put s <;> rw [h]
  · exact (MayRaise.notConstructed named notConstructs absent).faultsAllowed
  · exact wide.faultsAllowed
  · exact faultsAllowed_respond i s _ _

theorem execSetPay_faultsAllowed (c : Ctx) (s : State) : FaultsAllowed (.setPay c) s (execSetPay c s) := by
  unfold execSetPay
  split
  next noPayload =>
    have notWf : (Instr.setPay c).wf = false := by
      cases c with
      | ip => rfl
      | tcp | icmp | ping => cases noPayload
    exact (MayRaise.notWf notWf).faultsAllowed
  next =>
    split
    next =>
      split
      next => exact faultsAllowed_respond _ s _ _
      next => exact (MayRaise.setPay c).faultsAllowed
    next absent => exact (MayRaise.notConstructed rfl id (Bool.eq_false_iff.2 absent)).faultsAllowed

theorem execLdb_faultsAllowed (b : Buf) (a : Word) (s : State) : FaultsAllowed (.ldb b a) s (execLdb b a s) := by
  unfold execLdb
  split
  next => exact (MayRaise.ldb b a).faultsAllowed
  next => exact faultsAllowed_respond _ s _ _

theorem execRdf_faultsAllowed (c : Ctx) (r : Reg) (s : State) : FaultsAllowed (.rdf c r) s (execRdf c r s) := by
  unfold execRdf
  split
  next existing =>
    split
    next noValue =>
      have absent : s.valid c = false := by simpa [existing, noValue] using readField_isSome s c r
      exact (MayRaise.notConstructed rfl id absent).faultsAllowed
    next => exact faultsAllowed_respond _ s _ _
  next missing =>
    have notWf : (Instr.rdf c r).wf = false := Bool.eq_false_iff.2 missing
    exact (MayRaise.notWf notWf).faultsAllowed

theorem execWrf_faultsAllowed (c : Ctx) (r : Reg) (v : Word) (s : State) :
    FaultsAllowed (.wrf c r v) s (execWrf c r v s) := by
  unfold execWrf
  split
  next =>
    split
    next =>
      split
      next => exact faultsAllowed_respond _ s _ _
      next => exact (MayRaise.wrf c r v).faultsAllowed
    next absent => exact (MayRaise.notConstructed rfl id (Bool.eq_false_iff.2 absent)).faultsAllowed
  next readOnly =>
    have notWf : (Instr.wrf c r v).wf = false := Bool.eq_false_iff.2 readOnly
    exact (MayRaise.notWf notWf).faultsAllowed

/-- Every fault of every command is one it may raise. -/
theorem exec_faultsAllowed (i : Instr) (s : State) : FaultsAllowed i s (exec i s) := by
  cases i with
  | csum | constructTcp | clr | getLen => exact faultsAllowed_respond _ s _ _
  | constructIp a => exact faultsAllowed_ite (faultsAllowed_respond _ s _ _) (MayRaise.constructIp a).faultsAllowed
  | constructIcmp a => exact faultsAllowed_ite (faultsAllowed_respond _ s _ _) (MayRaise.constructIcmp a).faultsAllowed
  | constructPing a => exact faultsAllowed_ite (faultsAllowed_respond _ s _ _) (MayRaise.constructPing a).faultsAllowed
  | buildIp len => exact execBuildIp_faultsAllowed len s
  | buildTcp => exact execBuildTcp_faultsAllowed s
  | buildIcmp => exact execBuildIcmp_faultsAllowed s
  | buildPing => exact execBuildPing_faultsAllowed s
  | setSrc c => exact setAddress_faultsAllowed rfl id (.setSrc c)
  | setDst c => exact setAddress_faultsAllowed rfl id (.setDst c)
  | setSport a => exact exec_setSport a s ▸ setPort_faultsAllowed rfl id (.setSport a)
  | setDport a => exact exec_setDport a s ▸ setPort_faultsAllowed rfl id (.setDport a)
  | setPay c => exact execSetPay_faultsAllowed c s
  | rdf c r => exact execRdf_faultsAllowed c r s
  | wrf c r v => exact execWrf_faultsAllowed c r v s
  | push a =>
    exact faultsAllowed_ite (faultsAllowed_ite (faultsAllowed_respond _ s _ _) (MayRaise.pushFull a).faultsAllowed)
      (MayRaise.pushWide a).faultsAllowed
  | ldb b a => exact execLdb_faultsAllowed b a s

theorem mayRaise_of_answer {i : Instr} {s t : State} {q : Response} (h : exec i s = .next t) (answer : t.rsp = some q)
    (fault : q.status ≠ .ok) : MayRaise s i q.status :=
  exec_faultsAllowed i s q.status fault (exec_faulted h answer fault ▸ h)

/-- Settles O11: NotConstructed has no other cause, and its cause leads to it. -/
theorem notConstructedExactlyWithoutValid : Obligations.NotConstructedExactlyWithoutValid := by
  refine fun i s wf => ⟨⟨fun h => ?_, ?_⟩, fun t q h answer status => ?_⟩
  · cases exec_faultsAllowed i s .notConstructed nofun h with
    | notConstructed named notConstructs absent => exact ⟨_, named, notConstructs, absent⟩
  · rintro ⟨c, named, notConstructs, absent⟩
    exact exec_of_not_valid wf named notConstructs absent
  · exact status ▸ exec_faulted h answer (status ▸ nofun)

/-- Settles O12: each row of R250 lists the commands that may raise its fault. -/
theorem eachErrorHasItsCommands : Obligations.EachErrorHasItsCommands := by
  intro i s t q wf h answer
  have raised {e : Status} (status : q.status = e) (fault : e ≠ .ok) : MayRaise s i e := by
    subst status
    exact mayRaise_of_answer h answer fault
  refine ⟨?_, ?_, ?_, ?_, ?_, ?_⟩ <;> intro status
  · cases raised status nofun with
    | constructIp a => exact .inl ⟨a, rfl⟩
    | constructIcmp a => exact .inr ⟨a, rfl⟩
  · cases raised status nofun with
    | setSrc c => exact .inl ⟨c, rfl⟩
    | setDst c => exact .inr ⟨c, rfl⟩
  · cases raised status nofun with
    | options => rfl
  · cases raised status nofun with
    | wrf c r v => exact .inl ⟨c, r, v, rfl⟩
    | setSport a => exact .inr (.inl ⟨a, rfl⟩)
    | setDport a => exact .inr (.inr (.inl ⟨a, rfl⟩))
    | pushWide a => exact .inr (.inr (.inr (.inl ⟨a, rfl⟩)))
    | constructPing a => exact .inr (.inr (.inr (.inr (.inl ⟨a, rfl⟩))))
    | build c len => exact .inr (.inr (.inr (.inr (.inr ⟨c, len, rfl⟩))))
  · cases raised status nofun with
    | pushFull a => exact .inl ⟨a, rfl⟩
    | ldb b a => exact .inr (.inl ⟨b, a, rfl⟩)
    | setPay c => exact .inr (.inr ⟨c, rfl⟩)
  · cases raised status nofun with
    | notWf notWf => exact absurd wf (by simp [notWf])

end Sys2Proof.Machine
end

section
/-! ### Every command is answered (70_reset_and_hazards.md: O8) -/

namespace Sys2Proof.Machine

/-- Codes 8 to 15 are never produced (R250). -/
theorem Status.code_le (e : Status) : e.code.toNat ≤ 7 := by cases e <;> decide

/-- However a command ends, it ends with a response and leaves the parameters and the host's events alone. -/
theorem exec_answers (i : Instr) (s : State) : ∃ t q, exec i s = .next t ∧ t.rsp = some q ∧ sameInputs s t := by
  obtain ⟨e, -, h⟩ | ⟨v, u, hu, h⟩ := exec_ends i s
  · exact ⟨_, _, h, rfl, rfl, rfl⟩
  · exact ⟨_, _, h, rfl, hu.sameInputs⟩

/-- Settles O8: decoded words are answered as their command is, refused words by the step itself. -/
theorem everyCommandIsAnsweredInItsStep : Obligations.EveryCommandIsAnsweredInItsStep := by
  intro s cmd arg rest presented
  cases decoded : decode cmd arg with
  | ok i =>
    obtain ⟨t, q, h, answer, params, host⟩ := exec_answers i { s with host := rest, rsp := none }
    exact ⟨t, q, (step_of_decode_ok presented decoded).trans h, answer, q.status.code_le, host, params⟩
  | error e =>
    exact ⟨_, _, step_of_decode_error presented decoded, rfl, Status.code_le _, rfl, rfl⟩

end Sys2Proof.Machine
end
